-- ==== Sys2Proof/Word.lean ====
section
/-! DEFINITION. The word types of the engine (spec/00_scope.md R8, spec/30_encoding.md R62). -/

namespace Sys2Proof

/-- A state word, a key word or a message word: 64 bits (R8). -/
abbrev Word := BitVec 64

/-- A message byte, the control byte, or the byte counter LEN: 8 bits (R8, R23, R62). -/
abbrev Byte := BitVec 8

/-- The data field of a command: 128 bits (R62). -/
abbrev DataField := BitVec 128

/-- A command word CW: 136 bits, the control byte above the data field (R62). -/
abbrev CommandWord := BitVec 136

end Sys2Proof
end

