-- ==== Sys2Proof/Syntax.lean ====
section
/-! DEFINITION. The command set: one constructor per row of spec/opcode_table.json (spec/30_encoding.md R66). -/

namespace Sys2Proof

/-- A command of the engine with its operands (R65, R69). -/
inductive Instr where
  /-- `INIT k0, k1`: state initialization from the two key words (R82). -/
  | init (k0 k1 : Word)
  /-- `BLOCK m`: absorb one full 8-byte block, already decoded to a word (R101). -/
  | block (m : Word)
  /-- `LAST n, r_0, ..., r_(n-1)`: absorb the padded final block. `remaining` lists the bytes r_j, first message byte
  first, and `n` is its length (R102). -/
  | last (remaining : List Byte)
  /-- `FIN`: finalize and squeeze (R111, R112). -/
  | fin
  deriving DecidableEq, Repr

/-- The mnemonics of R69. -/
def Instr.mnemonic : Instr → String
  | .init _ _ => "INIT"
  | .block _ => "BLOCK"
  | .last _ => "LAST"
  | .fin => "FIN"

/-- The assembler line of a command (R69): numbers in hexadecimal, `LAST` with its count first. -/
def Instr.assembly : Instr → String
  | .init k0 k1 => "INIT 0x" ++ k0.toHex ++ ", 0x" ++ k1.toHex
  | .block m => "BLOCK 0x" ++ m.toHex
  | .last remaining => remaining.foldl (fun line r => line ++ ", 0x" ++ r.toHex) ("LAST " ++ toString remaining.length)
  | .fin => "FIN"

end Sys2Proof
end

