-- ==== Sys2Proof/WellFormed.lean ====
section
/-! DEFINITION. Which command terms some command word spells (spec/30_encoding.md R63, R65). -/

namespace Sys2Proof

/-- The check a `LAST` term must pass: the count field has three bits, "a count of 8 cannot be written" (R63). -/
def countFits (remaining : List Byte) : Bool := decide (remaining.length ≤ 7)

/-- A command term is well formed when a command word spells it. Every k0, k1, m and every byte is legal (R65). -/
def Instr.wf : Instr → Bool
  | .init _ _ => true
  | .block _ => true
  | .last remaining => countFits remaining
  | .fin => true

end Sys2Proof
end

