-- ==== Sys2Proof/Decode.lean ====
section
/-! DEFINITION. The decoder, total on any 136-bit word and rejecting by name (spec/30_encoding.md R62 to R68), the
encoder after it (R64, R69), and the layout of an opcode-table word (notes/assumptions/12.md). -/

namespace Sys2Proof

/-- Why a command word is illegal: its control byte is reserved (R67). -/
inductive IllegalWhy where
  /-- `rsv != 0`. -/
  | reservedBits
  /-- `rsv = 0`, `op != 2` and `n != 0`. -/
  | countWithoutLast
  deriving DecidableEq, Repr

/-- What a command word decodes to (R68). -/
inductive Decoded where
  | command (i : Instr)
  | illegal (why : IllegalWhy)
  deriving DecidableEq, Repr

/-- `ctl = CW[135:128]` (R62). -/
def controlByte (cw : CommandWord) : Byte := cw.extractLsb' 128 8

/-- `data = CW[127:0]` (R62). -/
def dataField (cw : CommandWord) : DataField := cw.extractLsb' 0 128

/-- `ctl[1:0]`, the opcode (R63). -/
def opField (ctl : Byte) : BitVec 2 := ctl.extractLsb' 0 2

/-- `ctl[4:2]`, the byte count `n` (R63). -/
def countField (ctl : Byte) : BitVec 3 := ctl.extractLsb' 2 3

/-- `ctl[7:5]`, reserved (R63). -/
def reservedField (ctl : Byte) : BitVec 3 := ctl.extractLsb' 5 3

/-- Byte lane `j` of the data field, `data[8j+7:8j]` (R43). -/
def byteLane (data : DataField) (j : Nat) : Byte := data.extractLsb' (8 * j) 8

/-- `data[63:0]`: k0 of `INIT`, m of `BLOCK` (R65). -/
def lowWord (data : DataField) : Word := data.extractLsb' 0 64

/-- `data[127:64]`: k1 of `INIT` (R65). -/
def highWord (data : DataField) : Word := data.extractLsb' 64 64

/-- The `n` remaining message bytes of `LAST`: lanes 0 to n-1, in message order (R43, R65). -/
def remainingBytes (data : DataField) (n : Nat) : List Byte := (List.range n).map (byteLane data)

/-- Decoding, in the order of tests of R68. -/
def decode (cw : CommandWord) : Decoded :=
  let ctl := controlByte cw
  let data := dataField cw
  if reservedField ctl ≠ 0 then .illegal .reservedBits
  else if opField ctl = 2 then .command (.last (remainingBytes data (countField ctl).toNat))
  else if countField ctl ≠ 0 then .illegal .countWithoutLast
  else if opField ctl = 0 then .command (.init (lowWord data) (highWord data))
  else if opField ctl = 1 then .command (.block (lowWord data))
  else .command .fin

/-- A list of bytes as the number whose byte `j` is the `j`-th of the list: `b0 + 2^8 b1 + 2^16 b2 + ...` (R12). -/
def littleEndian : List Byte → Nat
  | [] => 0
  | b :: bs => b.toNat + 256 * littleEndian bs

/-- The control byte of a command: `op` in bits 1..0, `n` in bits 4..2, `rsv = 0` (R63, R66). -/
def encodeControl : Instr → Byte
  | .init _ _ => 0x00
  | .block _ => 0x01
  | .last remaining => 0x02 + 4 * BitVec.ofNat 8 remaining.length
  | .fin => 0x03

/-- The data field of a command, every ignored bit 0 (R64, R69). -/
def encodeData : Instr → DataField
  | .init k0 k1 => k1 ++ k0
  | .block m => m.setWidth 128
  | .last remaining => BitVec.ofNat 128 (littleEndian remaining)
  | .fin => 0

/-- The canonical encoding of a well-formed command (R69). -/
def encode (i : Instr) : CommandWord := encodeControl i ++ encodeData i

/-- The canonical encoding as it is printed: 34 hexadecimal digits, the control byte first (R69). -/
def Instr.canonicalText (i : Instr) : String := (encode i).toHex

/-- The command word of an opcode-table row's bits. The table numbers the control byte as bits 7..0 (its `fixed` fields),
so it is the first byte; the data field's bit `j` is then table bit `8 + j`, and every bit from `nbits` up is 0
(notes/assumptions/12.md). -/
def tableCommandWord (nbits w : Nat) : CommandWord :=
  let bits := w % 2 ^ nbits
  BitVec.ofNat 8 bits ++ BitVec.ofNat 128 (bits / 2 ^ 8)

/-- The command the decoder reads from an opcode-table row's bits. -/
def decodeTableWord (nbits w : Nat) : Option Instr :=
  match decode (tableCommandWord nbits w) with
  | .command i => some i
  | .illegal _ => none

end Sys2Proof
end

