-- ==== Sys2Proof/Machine/Operands.lean ====
section
/-! DEFINITION. Operand assembly: the little-endian load and the padded final block (spec/00_scope.md R12,
spec/20_memory.md R42, R43, R50, spec/42_compression.md R102). -/

namespace Sys2Proof.Machine

/-- `le64`: the little-endian decode of eight bytes, first message byte in bits 7..0 (R12). -/
def le64 (bytes : List Byte) : Word := BitVec.ofNat 64 (littleEndian bytes)

/-- The length byte of the padded block: `(LEN + n) mod 256` (R102). -/
def lengthByte (len : Byte) (remaining : List Byte) : Byte := len + BitVec.ofNat 8 remaining.length

/-- BUF as LAST builds it: the remaining message bytes, zero fill up to byte 6, the length byte (R102). -/
def paddedBuffer (len : Byte) (remaining : List Byte) : List Byte :=
  remaining ++ List.replicate (7 - remaining.length) 0 ++ [lengthByte len remaining]

/-- `m_last`, the word LAST absorbs (R102). -/
def lastWord (len : Byte) (remaining : List Byte) : Word := le64 (paddedBuffer len remaining)

/-- The eight bytes of a word, first message byte first: what `le64` reads back (R42). -/
def wordBytes (m : Word) : List Byte := (List.range 8).map fun j => m.extractLsb' (8 * j) 8

end Sys2Proof.Machine
end

