-- ==== Sys2Proof/Machine/Constants.lean ====
section
/-! DEFINITION. The fixed constants of the engine (spec/00_scope.md R7, spec/43_finalization.md R114). -/

namespace Sys2Proof.Machine

/-- The initialization constant paired with v0 (R7, R81; notes/assumptions/2.md). -/
def iv0 : Word := 0x736f6d6570736575

/-- The initialization constant paired with v1 (R7, R81; notes/assumptions/2.md). -/
def iv1 : Word := 0x646f72616e646f6d

/-- The initialization constant paired with v2 (R7, R81; notes/assumptions/2.md). -/
def iv2 : Word := 0x6c7967656e657261

/-- The initialization constant paired with v3 (R7, R81; notes/assumptions/2.md). -/
def iv3 : Word := 0x7465646279746573

/-- The constant XORed into v2 by the 64-bit finalization, zero-extended (R11, R111, R114). -/
def finNarrow : Word := 0xff

/-- The constant XORed into v2 by the 128-bit finalization (R112, R114). -/
def finWide : Word := 0xee

/-- The constant XORed into v1 between the two squeezes of the 128-bit finalization (R112, R114). -/
def finWideSecond : Word := 0xdd

end Sys2Proof.Machine
end

