-- ==== Sys2Proof/Config.lean ====
section
/-! DEFINITION. What an instance of the engine fixes (spec/00_scope.md R5, R6), and the free values: what the spec
calls unspecified (spec/93_implementation_defined.md U5, U6, U7), constants with no body. -/

namespace Sys2Proof

/-- The output width `W`: "a closed choice {64-bit, 128-bit}" (R6). -/
inductive OutputWidth where
  | w64
  | w128
  deriving DecidableEq, Repr

/-- The width in bits. -/
def OutputWidth.bits : OutputWidth → Nat
  | .w64 => 64
  | .w128 => 128

/-- The parameters of an instance: the round counts `C` and `D`, positive (R5; an instance with a zero count cannot be
built, 93 U1), and the output width `W` (R6). -/
structure Params where
  /-- `C`, the rounds applied to every block. -/
  c : Nat
  /-- `D`, the rounds applied before each squeeze. -/
  d : Nat
  /-- `W`, the output width. -/
  width : OutputWidth
  /-- `C >= 1`. -/
  cPos : 0 < c
  /-- `D >= 1`. -/
  dPos : 0 < d
  deriving DecidableEq, Repr

/-- SipHash-2-4 with 64-bit output, one of the standard variants (R5). -/
def Params.sipHash24 : Params :=
  { c := 2, d := 4, width := .w64, cPos := by decide, dPos := by decide }

/-- SipHash-2-4 with 128-bit output. -/
def Params.sipHash24Wide : Params :=
  { c := 2, d := 4, width := .w128, cPos := by decide, dPos := by decide }

/-- SipHash-4-8 with 64-bit output, the other standard variant (R5). -/
def Params.sipHash48 : Params :=
  { c := 4, d := 8, width := .w64, cPos := by decide, dPos := by decide }

/-- Free value: the contents of state word `register` after the reset event numbered `draw`
(R31 "unspecified"; notes/assumptions/5.md). -/
opaque Config.freeStateWord (draw register : Nat) : Word

/-- Free value: LEN after the reset event numbered `draw` (R31; notes/assumptions/5.md). -/
opaque Config.freeLength (draw : Nat) : Byte

/-- Free value: the DIGEST register of a 64-bit instance after the reset event numbered `draw`
(R31; notes/assumptions/5.md). -/
opaque Config.freeDigest64 (draw : Nat) : BitVec 64

/-- Free value: the DIGEST register of a 128-bit instance after the reset event numbered `draw`
(R31; notes/assumptions/5.md). -/
opaque Config.freeDigest128 (draw : Nat) : BitVec 128

/-- Free value: the contents of state word `register`, which held `held`, after the fault entry numbered `draw`
(R143 "unspecified for every purpose"; notes/assumptions/10.md). -/
opaque Config.faultStateWord (draw register : Nat) (held : Word) : Word

/-- Free value: LEN, which held `held`, after the fault entry numbered `draw` (R143; notes/assumptions/10.md). -/
opaque Config.faultLength (draw : Nat) (held : Byte) : Byte

/-- Free value: the DIGEST register of a 64-bit instance, which held `held`, after the fault entry numbered `draw`
(R143; notes/assumptions/10.md). -/
opaque Config.faultDigest64 (draw : Nat) (held : BitVec 64) : BitVec 64

/-- Free value: the DIGEST register of a 128-bit instance, which held `held`, after the fault entry numbered `draw`
(R143; notes/assumptions/10.md). -/
opaque Config.faultDigest128 (draw : Nat) (held : BitVec 128) : BitVec 128

/-- Free value: the DIGEST register of a 64-bit instance, which held `held`, after the INIT numbered `draw`
(R82 "its value is unspecified from this point"; notes/assumptions/10.md). -/
opaque Config.initDigest64 (draw : Nat) (held : BitVec 64) : BitVec 64

/-- Free value: the DIGEST register of a 128-bit instance, which held `held`, after the INIT numbered `draw`
(R82; notes/assumptions/10.md). -/
opaque Config.initDigest128 (draw : Nat) (held : BitVec 128) : BitVec 128

/-- Free value: what the `digest` port of a 64-bit instance shows while DVALID = 0
(R27 "unspecified"; notes/assumptions/9.md). -/
opaque Config.freePort64 (draw : Nat) : BitVec 64

/-- Free value: what the `digest` port of a 128-bit instance shows while DVALID = 0
(R27 "unspecified"; notes/assumptions/9.md). -/
opaque Config.freePort128 (draw : Nat) : BitVec 128

end Sys2Proof
end

