-- ==== Sys2Proof/Machine/State.lean ====
section
/-! DEFINITION. The architectural state of the engine (spec/10_state.md), as plain data, and its value after reset. -/

namespace Sys2Proof.Machine

/-- The four state words: "exactly four 64-bit words" (R20). -/
structure Words where
  v0 : Word
  v1 : Word
  v2 : Word
  v3 : Word
  deriving DecidableEq, Repr

/-- PHASE, what the engine holds between commands in place of a program counter (R24). Codes 5, 6 and 7 are never taken
and have no constructor (93 U12). -/
inductive Phase where
  /-- 0: after reset; no transaction begun. -/
  | idle
  /-- 1: INIT done; full blocks and the final block are accepted. -/
  | absorb
  /-- 2: the padded final block has been processed. -/
  | padded
  /-- 3: finalization done; DIGEST holds the result. -/
  | done
  /-- 4: a fault was taken; only reset leaves this phase. -/
  | fault
  deriving DecidableEq, Repr

/-- ERRCODE, the cause of the fault that put the engine in phase FAULT (R26). Code 3 is never taken and has no
constructor (93 U12). -/
inductive ErrCode where
  /-- 0: none. -/
  | none
  /-- 1: IllegalCommand (R140). -/
  | illegalCommand
  /-- 2: SequenceFault (R141). -/
  | sequenceFault
  deriving DecidableEq, Repr

/-- The `W`-bit DIGEST register (R27): its form is fixed by the instance's width (notes/assumptions/13.md). -/
inductive Digest where
  /-- `W = 64`: no upper half. -/
  | narrow (bits : BitVec 64)
  /-- `W = 128`: bits 63..0 the first squeeze, bits 127..64 the second. -/
  | wide (bits : BitVec 128)
  deriving DecidableEq, Repr

/-- The width of the register. -/
def Digest.width : Digest → OutputWidth
  | .narrow _ => .w64
  | .wide _ => .w128

/-- The digest as the unsigned integer it is, "no further structure" (R27). -/
def Digest.toNat : Digest → Nat
  | .narrow bits => bits.toNat
  | .wide bits => bits.toNat

/-- One sample of the engine's input ports `rst`, `cmd_valid` and `cmd` (R60). -/
structure PortSample where
  rst : Bool
  cmdValid : Bool
  cmd : CommandWord
  deriving DecidableEq, Repr

/-- The state of the engine (R20, R23, R24, R26, R27), with the instance's parameters and two fields of the model's own:
the input samples still to come and the counter of the free values. -/
structure State where
  /-- v0..v3 (R20). -/
  v : Words
  /-- LEN: message bytes absorbed so far, modulo 256 (R23). -/
  len : Byte
  /-- PHASE (R24). -/
  phase : Phase
  /-- DVALID: 1 exactly when DIGEST holds the digest of the last completed transaction (R26). -/
  dvalid : Bool
  /-- ERRCODE (R26). -/
  err : ErrCode
  /-- DIGEST (R27). -/
  digest : Digest
  /-- The instance's parameters, which nothing writes (R5, R6; notes/assumptions/1.md). -/
  params : Params
  /-- The model's own: the samples of the input ports still to come, oldest first (notes/assumptions/7.md). -/
  host : List PortSample
  /-- The model's own: the counter from which each unspecified value is drawn (notes/assumptions/6.md). -/
  draws : Nat
  deriving DecidableEq, Repr

/-- Why the machine would stop with a fault. No constructor: the engine's two faults, IllegalCommand and SequenceFault,
are states it goes on in (R143, R145), and the spec gives it no other. -/
inductive Fault where
  deriving DecidableEq, Repr

/-- Why the model gives a command term no meaning. -/
inductive Refusal where
  /-- Raised by no arm of exec: every command has its meaning. Safe. -/
  | notModelled (mnemonic : String)
  /-- Raised by execLast for a `LAST` term of more than seven bytes, which no command word spells (R63), so never by
  step. Safe. -/
  | illFormed
  deriving DecidableEq, Repr

/-- The outcome of a command or of a step. -/
abbrev Outcome := Host.Outcome State Fault Refusal

/-- The DIGEST register of a given width with every bit 0. -/
def Digest.zero : OutputWidth → Digest
  | .w64 => .narrow 0
  | .w128 => .wide 0

/-- The state after reset of an instance: PHASE = IDLE, DVALID = 0, ERRCODE = 0 (R31). The spec gives v0..v3, LEN and
DIGEST no value; DESIGN CHOICE 0, unsafe (notes/assumptions/4.md). -/
def State.resetOf (p : Params) : State :=
  { v := { v0 := 0, v1 := 0, v2 := 0, v3 := 0 }
    len := 0
    phase := .idle
    dvalid := false
    err := .none
    digest := .zero p.width
    params := p
    host := []
    draws := 0 }

/-- The machine right after reset, for the instance SipHash-2-4 with 64-bit output (DESIGN CHOICE,
notes/assumptions/1.md). -/
def State.reset : State := State.resetOf Params.sipHash24

end Sys2Proof.Machine
end

