-- ==== Sys2Proof/Machine/Rounds.lean ====
section
/-! DEFINITION. The arithmetic primitives (spec/00_scope.md R9, R10) and the mixing round SipRound
(spec/41_sipround.md R90 to R94). -/

namespace Sys2Proof.Machine

/-- `add64`: addition modulo 2^64, with no carry out and no trap (R9). -/
def add64 (a b : Word) : Word := a + b

/-- `rotl64`: circular left rotation by a constant, by the formula of R10. -/
def rotl64 (x : Word) (r : Nat) : Word := (x <<< r) ||| (x >>> (64 - r))

/-- One mixing round over the four state words, line for line as R90 gives it. -/
def sipRound (w : Words) : Words :=
  -- step 1
  let w := { w with v0 := add64 w.v0 w.v1 }
  let w := { w with v1 := rotl64 w.v1 13 }
  let w := { w with v1 := w.v1 ^^^ w.v0 }
  let w := { w with v0 := rotl64 w.v0 32 }
  -- step 2
  let w := { w with v2 := add64 w.v2 w.v3 }
  let w := { w with v3 := rotl64 w.v3 16 }
  let w := { w with v3 := w.v3 ^^^ w.v2 }
  -- step 3
  let w := { w with v0 := add64 w.v0 w.v3 }
  let w := { w with v3 := rotl64 w.v3 21 }
  let w := { w with v3 := w.v3 ^^^ w.v0 }
  -- step 4
  let w := { w with v2 := add64 w.v2 w.v1 }
  let w := { w with v1 := rotl64 w.v1 17 }
  let w := { w with v1 := w.v1 ^^^ w.v2 }
  { w with v2 := rotl64 w.v2 32 }

/-- `SipRound^N`: the round applied N times in sequence (R93). -/
def sipRounds : Nat → Words → Words
  | 0, w => w
  | n + 1, w => sipRounds n (sipRound w)

/-- The lane a hardware round is built of: add, rotate, XOR, rotate the sum (R92). It answers the rotated sum and the
mixed word. -/
def mixLane (x y : Word) (rotMixed rotSum : Nat) : Word × Word :=
  let sum := add64 x y
  (rotl64 sum rotSum, rotl64 y rotMixed ^^^ sum)

/-- The round as two layers, each of two lanes that read nothing of one another (R92): the schedule of the datapath.
Step 2 and step 3 do not rotate their sum. -/
def sipRoundLayered (w : Words) : Words :=
  let left := mixLane w.v0 w.v1 13 32
  let right := (add64 w.v2 w.v3, rotl64 w.v3 16 ^^^ add64 w.v2 w.v3)
  let outer := (add64 left.1 right.2, rotl64 right.2 21 ^^^ add64 left.1 right.2)
  let inner := mixLane right.1 left.2 17 32
  { v0 := outer.1, v1 := inner.2, v2 := inner.1, v3 := outer.2 }

/-- The inverse of the round: its lines undone in reverse order (R94). The engine never runs it. -/
def sipRoundInverse (w : Words) : Words :=
  -- step 4 undone
  let w := { w with v2 := rotl64 w.v2 32 }
  let w := { w with v1 := w.v1 ^^^ w.v2 }
  let w := { w with v1 := rotl64 w.v1 47 }
  let w := { w with v2 := w.v2 - w.v1 }
  -- step 3 undone
  let w := { w with v3 := w.v3 ^^^ w.v0 }
  let w := { w with v3 := rotl64 w.v3 43 }
  let w := { w with v0 := w.v0 - w.v3 }
  -- step 2 undone
  let w := { w with v3 := w.v3 ^^^ w.v2 }
  let w := { w with v3 := rotl64 w.v3 48 }
  let w := { w with v2 := w.v2 - w.v3 }
  -- step 1 undone
  let w := { w with v0 := rotl64 w.v0 32 }
  let w := { w with v1 := w.v1 ^^^ w.v0 }
  let w := { w with v1 := rotl64 w.v1 51 }
  { w with v0 := w.v0 - w.v1 }

end Sys2Proof.Machine
end

