-- ==== Sys2Proof/Machine/Ops.lean ====
section
/-! DEFINITION. The operations the commands share: the phase table (spec/10_state.md R25), fault entry
(spec/60_exceptions.md R143), the reset event (spec/70_reset_and_hazards.md R160), which is the one way back from a
fault (R146), Absorb (spec/42_compression.md R100), Squeeze and finalization (spec/43_finalization.md R110 to R113). -/

namespace Sys2Proof.Machine

/-- Which command of the opcode map is meant, without its operands (R66). -/
inductive Command where
  | init
  | block
  | last
  | fin
  deriving DecidableEq, Repr

/-- An entry of the phase table (R25). -/
inductive PhaseAction where
  /-- "go X": the command executes by its own rule and then PHASE <- X. -/
  | go (next : Phase)
  /-- "SEQ": the command does not execute and raises SequenceFault. -/
  | seq
  /-- "drop": the command is accepted and nothing at all changes. -/
  | drop
  deriving DecidableEq, Repr

/-- How each command advances PHASE, the table of R25. -/
def phaseTable : Phase → Command → PhaseAction
  | .idle, .init => .go .absorb
  | .idle, .block => .seq
  | .idle, .last => .seq
  | .idle, .fin => .seq
  | .absorb, .init => .go .absorb
  | .absorb, .block => .go .absorb
  | .absorb, .last => .go .padded
  | .absorb, .fin => .seq
  | .padded, .init => .go .absorb
  | .padded, .block => .seq
  | .padded, .last => .seq
  | .padded, .fin => .go .done
  | .done, .init => .go .absorb
  | .done, .block => .seq
  | .done, .last => .seq
  | .done, .fin => .seq
  | .fault, .init => .drop
  | .fault, .block => .drop
  | .fault, .last => .drop
  | .fault, .fin => .drop

/-- The state words after fault entry: unspecified, so free values (R143; notes/assumptions/10.md). -/
def faultWords (draw : Nat) (w : Words) : Words :=
  { v0 := Config.faultStateWord draw 0 w.v0
    v1 := Config.faultStateWord draw 1 w.v1
    v2 := Config.faultStateWord draw 2 w.v2
    v3 := Config.faultStateWord draw 3 w.v3 }

/-- DIGEST after fault entry: unspecified, so a free value, of the width it had (R143; notes/assumptions/10.md). -/
def faultDigest (draw : Nat) : Digest → Digest
  | .narrow held => .narrow (Config.faultDigest64 draw held)
  | .wide held => .wide (Config.faultDigest128 draw held)

/-- Fault entry, `raise <Fault e>`: ERRCODE <- e, DVALID <- 0, PHASE <- FAULT. The command does nothing else, and v0..v3,
LEN and DIGEST are unspecified from here on, so free values of what they held (R143, 93 U7; notes/assumptions/10.md). -/
def takeFault (e : ErrCode) (s : State) : State :=
  { s with
    v := faultWords s.draws s.v
    len := Config.faultLength s.draws s.len
    digest := faultDigest s.draws s.digest
    err := e
    dvalid := false
    phase := .fault }

/-- A command looked up in the phase table: its effect and then its next phase, SequenceFault, or nothing (R25). -/
def sequenced (c : Command) (effect : State → State) (s : State) : State :=
  match phaseTable s.phase c with
  | .go next => { effect s with phase := next }
  | .seq => takeFault .sequenceFault s
  | .drop => s

/-- What the reset event leaves in DIGEST: a free value of the instance's width (R31). -/
def freeDigest : OutputWidth → Nat → Digest
  | .w64, draw => .narrow (Config.freeDigest64 draw)
  | .w128, draw => .wide (Config.freeDigest128 draw)

/-- The reset event: PHASE = IDLE, DVALID = 0, ERRCODE = 0; v0..v3, LEN and DIGEST unspecified, so free values; the
parameters untouched (R31, R160). The only way out of phase FAULT (R146). -/
def resetEvent (s : State) : State :=
  { s with
    v :=
      { v0 := Config.freeStateWord s.draws 0
        v1 := Config.freeStateWord s.draws 1
        v2 := Config.freeStateWord s.draws 2
        v3 := Config.freeStateWord s.draws 3 }
    len := Config.freeLength s.draws
    phase := .idle
    dvalid := false
    err := .none
    digest := freeDigest s.params.width s.draws }

/-- The initialization pattern of the state words (R81). -/
def initWords (k0 k1 : Word) : Words :=
  { v0 := k0 ^^^ iv0, v1 := k1 ^^^ iv1, v2 := k0 ^^^ iv2, v3 := k1 ^^^ iv3 }

/-- `Absorb(m)`: v3 ^= m, `C` rounds, v0 ^= m (R100). -/
def absorb (c : Nat) (w : Words) (m : Word) : Words :=
  let w := { w with v3 := w.v3 ^^^ m }
  let w := sipRounds c w
  { w with v0 := w.v0 ^^^ m }

/-- `Squeeze()` (R110). -/
def squeeze (w : Words) : Word := w.v0 ^^^ w.v1 ^^^ w.v2 ^^^ w.v3

/-- The 64-bit finalization: the state words it leaves and the digest (R111). -/
def finalizeNarrow (d : Nat) (w : Words) : Words × Digest :=
  let w := { w with v2 := w.v2 ^^^ finNarrow }
  let w := sipRounds d w
  (w, .narrow (squeeze w))

/-- The 128-bit finalization: the state words it leaves and the digest, low half from the first squeeze (R112). -/
def finalizeWide (d : Nat) (w : Words) : Words × Digest :=
  let w := { w with v2 := w.v2 ^^^ finWide }
  let w := sipRounds d w
  let lo := squeeze w
  let w := { w with v1 := w.v1 ^^^ finWideSecond }
  let w := sipRounds d w
  let hi := squeeze w
  (w, .wide (hi ++ lo))

/-- The output multiplexer: the instance's width selects the finalization (R113). -/
def finalize (p : Params) (w : Words) : Words × Digest :=
  match p.width with
  | .w64 => finalizeNarrow p.d w
  | .w128 => finalizeWide p.d w

end Sys2Proof.Machine
end

