-- ==== Sys2Proof/Machine/Compression.lean ====
section
/-! DEFINITION. The meanings of BLOCK and LAST (spec/42_compression.md R101, R102). -/

namespace Sys2Proof.Machine

/-- BLOCK's own effect: Absorb(m), LEN <- (LEN + 8) mod 256 (R101). -/
def blockEffect (m : Word) (s : State) : State :=
  { s with v := absorb s.params.c s.v m, len := s.len + 8 }

/-- BLOCK m (R101). -/
def execBlock (m : Word) (s : State) : Outcome :=
  .next (sequenced .block (blockEffect m) s)

/-- LAST's own effect: Absorb(m_last); LEN is not updated (R102). -/
def lastEffect (remaining : List Byte) (s : State) : State :=
  { s with v := absorb s.params.c s.v (lastWord s.len remaining) }

/-- LAST n, r_0, ..., r_(n-1) (R102). A term of more than seven bytes is no command (R63) and is refused
(notes/assumptions/11.md). -/
def execLast (remaining : List Byte) (s : State) : Outcome :=
  if countFits remaining then .next (sequenced .last (lastEffect remaining) s)
  else .refused .illFormed

end Sys2Proof.Machine
end

