-- ==== Sys2Proof/Machine/Finalization.lean ====
section
/-! DEFINITION. The meaning of FIN (spec/43_finalization.md R111, R112). -/

namespace Sys2Proof.Machine

/-- FIN's own effect: finalize, DIGEST <- the squeezed value, DVALID <- 1 (R111, R112). -/
def finEffect (s : State) : State :=
  { s with
    v := (finalize s.params s.v).1
    digest := (finalize s.params s.v).2
    dvalid := true }

/-- FIN (R111, R112). -/
def execFin (s : State) : Outcome :=
  .next (sequenced .fin finEffect s)

end Sys2Proof.Machine
end

