-- ==== Sys2Proof/Machine/Initialization.lean ====
section
/-! DEFINITION. The meaning of INIT (spec/40_key_and_init.md R82, R83). -/

namespace Sys2Proof.Machine

/-- DIGEST after INIT: not written, and "its value is unspecified from this point", so a free value of what it held, of the
same width (R82; notes/assumptions/10.md). -/
def initDigest (draw : Nat) : Digest → Digest
  | .narrow held => .narrow (Config.initDigest64 draw held)
  | .wide held => .wide (Config.initDigest128 draw held)

/-- INIT's own effect: v0..v3 from the key, LEN <- 0, DVALID <- 0, DIGEST unspecified (R82). ERRCODE is not written, and no
width-dependent step exists (R83; notes/assumptions/3.md). -/
def initEffect (k0 k1 : Word) (s : State) : State :=
  { s with v := initWords k0 k1, len := 0, dvalid := false, digest := initDigest s.draws s.digest }

/-- INIT k0, k1 (R82). -/
def execInit (k0 k1 : Word) (s : State) : Outcome :=
  .next (sequenced .init (initEffect k0 k1) s)

end Sys2Proof.Machine
end

