-- ==== Sys2Proof/Machine/Dispatch.lean ====
section
/-! DEFINITION. One arm per command (spec/30_encoding.md R66). -/

namespace Sys2Proof.Machine

/-- What a command does, in any phase. -/
def exec (i : Instr) (s : State) : Host.Outcome State Fault Refusal :=
  match i with
  | .init k0 k1 => Sys2Proof.Machine.execInit k0 k1 s
  | .block m => Sys2Proof.Machine.execBlock m s
  | .last remaining => Sys2Proof.Machine.execLast remaining s
  | .fin => Sys2Proof.Machine.execFin s

end Sys2Proof.Machine
end

