-- ==== Sys2Proof/Machine/Accept.lean ====
section
/-! DEFINITION. Taking a sample of the input ports: command acceptance and the order of checks (spec/30_encoding.md R61,
spec/60_exceptions.md R144), and the reset input (spec/70_reset_and_hazards.md R160, R161). -/

namespace Sys2Proof.Machine

/-- An accepted command word: dropped in FAULT, else IllegalCommand, else the command, which looks up its own phase
(R144). -/
def accept (cw : CommandWord) (s : State) : Outcome :=
  if s.phase = .fault then .next s
  else
    match decode cw with
    | .illegal _ => .next (takeFault .illegalCommand s)
    | .command i => exec i s

/-- One sample of the ports: `rst` wins (R161), then a command on offer is accepted (R61), else `cmd` is ignored and the
idle engine holds its state (R61, R151). -/
def serve (p : PortSample) (s : State) : Outcome :=
  if p.rst then .next (resetEvent s)
  else if p.cmdValid then accept p.cmd s
  else .next s

/-- The state as the engine takes its next sample: the sample leaves the list, and the free values move on. -/
def State.takeSample (s : State) : State :=
  { s with host := s.host.tail, draws := s.draws + 1 }

/-- The sample in which the host offers a command word. -/
def PortSample.offer (cw : CommandWord) : PortSample :=
  { rst := false, cmdValid := true, cmd := cw }

/-- The sample in which the host asserts reset. -/
def PortSample.reset : PortSample :=
  { rst := true, cmdValid := false, cmd := 0 }

end Sys2Proof.Machine
end

