-- ==== Sys2Proof/Machine/Step.lean ====
section
/-! DEFINITION. One step of the engine: one sample of its input ports (spec/30_encoding.md R61). -/

namespace Sys2Proof.Machine

/-- One step. With no sample to come, the idle engine holds its state (R151; notes/assumptions/7.md). -/
def step (s : State) : Host.Outcome State Fault Refusal :=
  match s.host with
  | [] => .next s.takeSample
  | p :: _ => serve p s.takeSample

/-- The state with an opcode-table row's command word on offer as the next sample, so that the very next step accepts it;
the samples already to come follow it (notes/assumptions/7.md, 12.md). -/
def State.withFetchWord (s : State) (nbits w : Nat) : State :=
  { s with host := PortSample.offer (tableCommandWord nbits w) :: s.host }

end Sys2Proof.Machine
end

