-- ==== Sys2Proof/Machine/Normalizer.lean ====
section
/-! DEFINITION. The host-side key Normalizer (spec/44_facade.md R120 to R124): outside the engine, the contract that
decides which key words reach INIT. -/

namespace Sys2Proof.Machine

/-- The four key shapes, "a small closed set of conversion entry points" (R120). -/
inductive KeyMaterial where
  /-- A pair of 64-bit words, used as-is. -/
  | wordPair (first second : Word)
  /-- A byte sequence of any length. -/
  | byteSlice (bytes : List Byte)
  /-- A fixed 16-byte array. -/
  | byteArray (bytes : Vector Byte 16)
  /-- A 128-bit integer. -/
  | integer (x : BitVec 128)
  deriving DecidableEq, Repr

/-- What the Normalizer answers: the canonical key, or its one error (R123). -/
inductive Normalized where
  | key (k0 k1 : Word)
  | keyTooShort
  deriving DecidableEq, Repr

/-- The decoding of sixteen key bytes: bytes 0..7 are k0, bytes 8..15 are k1, each little-endian (R121). -/
def keyOfBytes (bytes : List Byte) : Normalized :=
  .key (le64 (bytes.take 8)) (le64 ((bytes.drop 8).take 8))

/-- The Normalizer (R121, R122, R123). -/
def normalizeKey : KeyMaterial → Normalized
  | .wordPair first second => .key first second
  | .byteSlice bytes => if bytes.length < 16 then .keyTooShort else keyOfBytes bytes
  | .byteArray bytes => keyOfBytes bytes.toList
  | .integer x => .key (x.extractLsb' 0 64) (x.extractLsb' 64 64)

end Sys2Proof.Machine
end

