-- ==== Sys2Proof/Machine/Flags.lean ====
section
/-! DEFINITION. The status items as the bits the host reads (spec/10_state.md R24, R26, R28). The engine has no
arithmetic flag and no command writes one as a side effect (R26). -/

namespace Sys2Proof.Machine

/-- The 3-bit code of PHASE (R24). -/
def Phase.code : Phase → BitVec 3
  | .idle => 0
  | .absorb => 1
  | .padded => 2
  | .done => 3
  | .fault => 4

/-- The 2-bit code of ERRCODE (R26). -/
def ErrCode.code : ErrCode → BitVec 2
  | .none => 0
  | .illegalCommand => 1
  | .sequenceFault => 2

/-- The status value: ERRCODE in bits 5..4, DVALID in bit 3, PHASE in bits 2..0 (R28). -/
def statusBits (err : ErrCode) (dvalid : Bool) (phase : Phase) : BitVec 6 :=
  err.code ++ BitVec.ofBool dvalid ++ phase.code

end Sys2Proof.Machine
end

