-- ==== Sys2Proof/Machine/Ports.lean ====
section
/-! DEFINITION. The output ports (spec/30_encoding.md R60, spec/10_state.md R27, R28). -/

namespace Sys2Proof.Machine

/-- What the `digest` port shows while DVALID = 0: unspecified, a free value (R27; notes/assumptions/9.md). -/
def freePort : OutputWidth → Nat → Digest
  | .w64, draw => .narrow (Config.freePort64 draw)
  | .w128, draw => .wide (Config.freePort128 draw)

/-- The `status` port: read-only, no side effect (R28). -/
def State.statusPort (s : State) : BitVec 6 := statusBits s.err s.dvalid s.phase

/-- The `digest` port: DIGEST while DVALID = 1 (R27). -/
def State.digestPort (s : State) : Digest :=
  if s.dvalid then s.digest else freePort s.params.width s.draws

/-- The `cmd_ready` port between two commands: 1 in every phase, FAULT included (R61; notes/assumptions/14.md). -/
def State.cmdReadyPort (_s : State) : Bool := true

end Sys2Proof.Machine
end

