-- ==== Sys2Proof/Machine/Facade.lean ====
section
/-! DEFINITION. The host contract: pseudo-instructions (spec/30_encoding.md R70), the transaction and the facade
(spec/44_facade.md R125), and the function the engine computes (R126). -/

namespace Sys2Proof.Machine

/-- `BLOCKB b0, ..., b7` (R70). -/
def blockB (bytes : List Byte) : Instr := .block (le64 bytes)

/-- `INITB s0, ..., s15` (R70). -/
def initB (secret : List Byte) : Instr := .init (le64 (secret.take 8)) (le64 ((secret.drop 8).take 8))

/-- Block `q` of a message: bytes 8q .. 8q+7 (R44). -/
def messageBlock (msg : List Byte) (q : Nat) : List Byte := (msg.drop (8 * q)).take 8

/-- The bytes after the last full block: L mod 8 of them (R44). -/
def messageTail (msg : List Byte) : List Byte := msg.drop (8 * (msg.length / 8))

/-- The words of the full blocks of a message, in message order (R44). -/
def messageWords (msg : List Byte) : List Word :=
  (List.range (msg.length / 8)).map fun q => le64 (messageBlock msg q)

/-- INIT, one BLOCK per word, LAST, FIN: the commands of a transaction (R125, R126). -/
def stream (k0 k1 : Word) (blocks : List Word) (remaining : List Byte) : List Instr :=
  .init k0 k1 :: (blocks.map Instr.block ++ [.last remaining, .fin])

/-- `HASH k0, k1, msg`: a whole transaction (R70, R125). -/
def transaction (k0 k1 : Word) (msg : List Byte) : List Instr :=
  stream k0 k1 (messageWords msg) (messageTail msg)

/-- The port samples by which a host issues commands, each in its canonical encoding. -/
def issue (commands : List Instr) : List PortSample := commands.map fun i => PortSample.offer (encode i)

/-- The port samples the facade drives for a key and a message; on KeyTooShort nothing is issued (R123, R125). -/
def facadeSamples (key : KeyMaterial) (msg : List Byte) : Option (List PortSample) :=
  match normalizeKey key with
  | .key k0 k1 => some (issue (transaction k0 k1 msg))
  | .keyTooShort => none

/-- What the facade answers its caller: "returns the digest or fails with `KeyTooShort`" (R125). -/
inductive FacadeResult where
  | digest (x : Digest)
  | keyTooShort
  /-- It has not returned: DVALID is still 0 after the last poll. From a start in FAULT, which R125 rules out. -/
  | waiting
  deriving DecidableEq, Repr

/-- `wait until status.DVALID = 1; return digest` (R125), for a host that looks at `status` once and then after each of at
most `polls` further steps of the engine. -/
def awaitDigest : Nat → State → FacadeResult × State
  | 0, s => if s.statusPort.getLsbD 3 then (.digest s.digestPort, s) else (.waiting, s)
  | polls + 1, s =>
    if s.statusPort.getLsbD 3 then (.digest s.digestPort, s)
    else
      match step s with
      | .next t => awaitDigest polls t
      | .fault _ => (.waiting, s)
      | .refused _ => (.waiting, s)

/-- `HASH(k0, k1, msg)`: the engine takes the commands, one a step, and then the host waits for the digest (R125). The
ports are this host's alone meanwhile (R167). It answers with the engine's state as well. -/
def hashMessage (polls : Nat) (k0 k1 : Word) (msg : List Byte) (s : State) : FacadeResult × State :=
  match Host.Core.run Sys2Proof.core (transaction k0 k1 msg).length { s with host := issue (transaction k0 k1 msg) } with
  | .next t => awaitDigest polls t
  | .fault _ => (.waiting, s)
  | .refused _ => (.waiting, s)

/-- The Engine Facade on an engine in state `s`: normalize the key, then HASH; on KeyTooShort it stops, and the engine's
state does not change (R123, R125; notes/assumptions/16.md). -/
def facade (polls : Nat) (key : KeyMaterial) (msg : List Byte) (s : State) : FacadeResult × State :=
  match normalizeKey key with
  | .key k0 k1 => hashMessage polls k0 k1 msg s
  | .keyTooShort => (.keyTooShort, s)

/-- The "single entry point": key material, message and (`C`, `D`, `W`) give the digest or KeyTooShort, on an instance
just reset. No poll beyond the first look is needed, because FIN is atomic (R32, R125). -/
def digestFor (p : Params) (key : KeyMaterial) (msg : List Byte) : FacadeResult :=
  (facade 0 key msg (State.resetOf p)).1

/-- The absorption of a whole message in R126: each full block, then the padded one, whose last byte is the message length
modulo 256. -/
def absorbMessage (c : Nat) (w : Words) (msg : List Byte) : Words :=
  let w := (List.range (msg.length / 8)).foldl (fun w q => absorb c w (le64 (messageBlock msg q))) w
  let tail := messageTail msg
  absorb c w (le64 (tail ++ List.replicate (7 - tail.length) 0 ++ [BitVec.ofNat 8 msg.length]))

/-- The last lines of R126: the digest of the state after the message. -/
def digestOf (width : OutputWidth) (d : Nat) (w : Words) : Digest :=
  match width with
  | .w64 =>
    let w := sipRounds d { w with v2 := w.v2 ^^^ 0xff }
    .narrow (w.v0 ^^^ w.v1 ^^^ w.v2 ^^^ w.v3)
  | .w128 =>
    let w := sipRounds d { w with v2 := w.v2 ^^^ 0xee }
    let lo := w.v0 ^^^ w.v1 ^^^ w.v2 ^^^ w.v3
    let w := sipRounds d { w with v1 := w.v1 ^^^ 0xdd }
    let hi := w.v0 ^^^ w.v1 ^^^ w.v2 ^^^ w.v3
    .wide (hi ++ lo)

/-- `SipHash(C, D, W, k0, k1, msg)`, with no reference to commands (R126). -/
def sipHash (p : Params) (k0 k1 : Word) (msg : List Byte) : Digest :=
  let w : Words := { v0 := k0 ^^^ iv0, v1 := k1 ^^^ iv1, v2 := k0 ^^^ iv2, v3 := k1 ^^^ iv3 }
  digestOf p.width p.d (absorbMessage p.c w msg)

/-- The message a command stream spells: the little-endian bytes of its blocks in order, then the bytes of LAST (R126). -/
def spelledMessage (blocks : List Word) (remaining : List Byte) : List Byte :=
  blocks.flatMap wordBytes ++ remaining

/-- The orders in which a host may store a digest as bytes: the host's parameter, not the engine's (D28,
notes/assumptions/16.md). -/
inductive ByteOrder where
  | lowByteFirst
  | highByteFirst
  deriving DecidableEq, Repr

/-- The digest as the host stores it, in the order the host chooses (D28). -/
def Digest.bytes (order : ByteOrder) (x : Digest) : List Byte :=
  let lowFirst := (List.range (x.width.bits / 8)).map fun j => BitVec.ofNat 8 (x.toNat / 2 ^ (8 * j))
  match order with
  | .lowByteFirst => lowFirst
  | .highByteFirst => lowFirst.reverse

end Sys2Proof.Machine
end

