-- ==== Sys2Proof/Machine/Micro.lean ====
section
/-! DEFINITION. The hidden state RC and BUF and the rounds inside a command as micro-steps (spec/10_state.md R29). The
engine's commands are atomic (R32) and step does not use this file; it is the refinement R29 speaks of. -/

namespace Sys2Proof.Machine

/-- What an implementation holds while a command executes: the state words, the round counter RC and the block buffer
BUF (R29). -/
structure Hidden where
  words : Words
  rc : Nat
  buf : List Byte
  deriving DecidableEq, Repr

/-- One micro-step of a group of `limit` rounds: a round while RC has not reached the limit, nothing afterwards (R29). -/
def Hidden.tick (limit : Nat) (h : Hidden) : Hidden :=
  if h.rc < limit then { h with words := sipRound h.words, rc := h.rc + 1 } else h

/-- `k` micro-steps. -/
def Hidden.run (limit : Nat) : Nat → Hidden → Hidden
  | 0, h => h
  | k + 1, h => Hidden.run limit k (h.tick limit)

/-- The start of a group of rounds: RC at 0. -/
def Hidden.start (w : Words) (buf : List Byte) : Hidden := { words := w, rc := 0, buf := buf }

/-- Absorbing the block in BUF by micro-steps: load and inject, `ticks` micro-steps with RC counting to `C`, inject again
(R29, R100). -/
def microAbsorb (c ticks : Nat) (w : Words) (buf : List Byte) : Words :=
  let m := le64 buf
  let h := Hidden.run c ticks (Hidden.start { w with v3 := w.v3 ^^^ m } buf)
  { h.words with v0 := h.words.v0 ^^^ m }

end Sys2Proof.Machine
end

