-- ==== Sys2Proof/Safety.lean ====
section
/-! DEFINITION. The terms in which claims are made: the invariant of the machine (spec/10_state.md R33), and runs
outside phase FAULT (spec/60_exceptions.md R146). -/

namespace Sys2Proof.Machine

/-- "DVALID = 1 if and only if PHASE = DONE" (R33). -/
abbrev State.ValidIffDone (s : State) : Prop := s.dvalid = true ↔ s.phase = .done

/-- "ERRCODE != 0 if and only if PHASE = FAULT" (R33). -/
abbrev State.ErrorIffFault (s : State) : Prop := s.err ≠ .none ↔ s.phase = .fault

/-- "In phase ABSORB, LEN is a multiple of 8" (R33). -/
abbrev State.LengthWholeBlocks (s : State) : Prop := s.phase = .absorb → s.len.toNat % 8 = 0

/-- DIGEST has the instance's width (R27); the model's own clause, since it holds DIGEST tagged by its width
(notes/assumptions/13.md). -/
abbrev State.DigestFits (s : State) : Prop := s.digest.width = s.params.width

/-- The invariant of the machine. The other clauses of R33, PHASE in 0..4 and held values in ABSORB and PADDED, are
facts of the state's types. -/
abbrev State.Inv (s : State) : Prop :=
  s.ValidIffDone ∧ s.ErrorIffFault ∧ s.LengthWholeBlocks ∧ s.DigestFits

/-- What a fault with code `e`, raised in `s`, leaves in `t`: the three items R143 writes, and everything that is no
register of the engine as it was. Nothing is said of v0..v3, LEN and DIGEST, which are "unspecified for every purpose"
(notes/assumptions/10.md). -/
abbrev State.FaultEntry (e : ErrCode) (s t : State) : Prop :=
  t.err = e ∧ t.dvalid = false ∧ t.phase = .fault ∧ t.params = s.params ∧ t.host = s.host ∧ t.draws = s.draws

/-- Two states that agree on all but the state words, as far as the spec gives the rest a value: LEN holds one in ABSORB
and PADDED (R33), DIGEST while DVALID = 1 (R27). -/
abbrev State.AgreeButWords (s s' : State) : Prop :=
  s.phase = s'.phase ∧ s.dvalid = s'.dvalid ∧ s.err = s'.err ∧ s.params = s'.params ∧ s.host = s'.host ∧
    (s.phase = .absorb ∨ s.phase = .padded → s.len = s'.len) ∧ (s.dvalid = true → s.digest = s'.digest)

/-- The engine is not in its fault state: the premise of a claim about a digest (R146). -/
abbrev State.Live (s : State) : Prop := s.phase ≠ .fault

/-- Every one of the first `k` steps from `s`, and the start, is outside phase FAULT. -/
def SafeRun (k : Nat) (s : State) : Prop :=
  ∀ j ≤ k, ∃ t : State, Host.Core.run Sys2Proof.core j s = .next t ∧ t.Live

end Sys2Proof.Machine
end

