-- ==== Sys2Proof/Certificates/Slice0/Obligations.lean ====
section
/-! DEFINITION. The statements for the provers, one `def Obligations.<Name> : Prop` each. A step is said in the fields it
writes: taking a sample leaves `host` without its first sample and moves `draws` on, both the model's own fields. A fault is
said by State.FaultEntry, which gives no value to v0..v3, LEN and DIGEST (notes/assumptions/10.md). -/

open Sys2Proof Sys2Proof.Machine

/-! ### Reset and the invariant -/

/-- Whatever the instance, the reset state is in IDLE with DVALID = 0 and ERRCODE = 0, reads 0 on the status port, has no
sample to come, and State.reset is that of SipHash-2-4 with 64-bit output (the model's choice of instance,
notes/assumptions/1.md). Nothing is said of v0..v3, LEN and DIGEST, to which 10_state.md section 8 gives no value. -/
def Obligations.ResetDefinedItems : Prop :=
  (∀ p : Params,
    (State.resetOf p).phase = .idle ∧ (State.resetOf p).dvalid = false ∧ (State.resetOf p).err = .none ∧
    (State.resetOf p).statusPort = 0 ∧ (State.resetOf p).params = p ∧ (State.resetOf p).host = []) ∧
  State.reset = State.resetOf Params.sipHash24

/-- The invariant holds in the reset state of every instance. -/
def Obligations.ResetSatisfiesInvariant : Prop :=
  ∀ p : Params, (State.resetOf p).Inv

/-- Every step keeps the invariant: DVALID = 1 iff PHASE = DONE, ERRCODE /= 0 iff PHASE = FAULT, LEN a multiple of 8 in
ABSORB (10_state.md section 9), and DIGEST of the instance's width (the model's clause, notes/assumptions/13.md). -/
def Obligations.StepKeepsInvariant : Prop :=
  ∀ s t : State, s.Inv → step s = .next t → t.Inv

/-! ### Encoding -/

/-- Decoding the canonical encoding of a well-formed command gives it back, with every operand. -/
def Obligations.DecodeEncodeAgree : Prop :=
  ∀ i : Instr, i.wf = true → decode (encode i) = .command i

/-- The other direction: what a word decodes to is well formed, and its encoding is the word with every ignored bit 0. -/
def Obligations.EncodeOfDecodedClearsIgnoredBits : Prop :=
  ∀ (cw : CommandWord) (i : Instr), decode cw = .command i →
    i.wf = true ∧
    controlByte (encode i) = controlByte cw ∧
    (dataField (encode i)).toNat =
      (dataField cw).toNat %
        2 ^ (match i with
          | .init _ _ => 128
          | .block _ => 64
          | .last remaining => 8 * remaining.length
          | .fin => 0)

/-- R66: a word is legal exactly when `rsv = 0` and either `op = 2` or `n = 0`; these are the eleven control bytes of the
map; and each command is its match and mask. -/
def Obligations.LegalControlBytes : Prop :=
  ∀ cw : CommandWord,
    ((∃ i, decode cw = .command i) ↔
      reservedField (controlByte cw) = 0 ∧ (opField (controlByte cw) = 2 ∨ countField (controlByte cw) = 0)) ∧
    ((∃ i, decode cw = .command i) ↔
      controlByte cw ∈ ([0x00, 0x01, 0x02, 0x06, 0x0A, 0x0E, 0x12, 0x16, 0x1A, 0x1E, 0x03] : List Byte)) ∧
    ((∃ k0 k1, decode cw = .command (.init k0 k1)) ↔ controlByte cw &&& 0xFF = 0x00) ∧
    ((∃ m, decode cw = .command (.block m)) ↔ controlByte cw &&& 0xFF = 0x01) ∧
    ((∃ remaining, decode cw = .command (.last remaining)) ↔ controlByte cw &&& 0xE3 = 0x02) ∧
    (decode cw = .command .fin ↔ controlByte cw &&& 0xFF = 0x03)

/-- R67: 245 control bytes are reserved, 224 with `rsv != 0` and 21 with `rsv = 0`, `op != 2`, `n != 0`; a command with one,
accepted in any phase but FAULT, whatever its data, does not execute and raises IllegalCommand. -/
def Obligations.ReservedEncodingsRaiseIllegalCommand : Prop :=
  ((List.range 256).filter fun x => reservedField (BitVec.ofNat 8 x) ≠ 0).length = 224 ∧
  ((List.range 256).filter fun x =>
    reservedField (BitVec.ofNat 8 x) = 0 ∧ opField (BitVec.ofNat 8 x) ≠ 2 ∧ countField (BitVec.ofNat 8 x) ≠ 0).length = 21 ∧
  ∀ (s : State) (cw : CommandWord) (rest : List PortSample),
    s.phase ≠ .fault →
    s.host = PortSample.offer cw :: rest →
    (reservedField (controlByte cw) ≠ 0 ∨ (opField (controlByte cw) ≠ 2 ∧ countField (controlByte cw) ≠ 0)) →
    ∃ t : State, step s = .next t ∧ State.FaultEntry .illegalCommand { s with host := rest, draws := s.draws + 1 } t

/-- R46: BLOCK ignores data[127:64], LAST with count n ignores data[127:8n], FIN ignores all of data, INIT uses all 128
bits. -/
def Obligations.IgnoredDataHasNoEffect : Prop :=
  ∀ cw cw' : CommandWord, controlByte cw = controlByte cw' →
    (controlByte cw = 0x01 → lowWord (dataField cw) = lowWord (dataField cw') → decode cw = decode cw') ∧
    (controlByte cw &&& 0xE3 = 0x02 →
      (∀ j < (countField (controlByte cw)).toNat, byteLane (dataField cw) j = byteLane (dataField cw') j) →
      decode cw = decode cw') ∧
    (controlByte cw = 0x03 → decode cw = decode cw') ∧
    (controlByte cw = 0x00 → decode cw = decode cw' → dataField cw = dataField cw')

/-- R65: the operands are taken from CW as they stand: k0 = CW[63:0], k1 = CW[127:64]; m = CW[63:0]; n = CW[132:130] and
r_j = CW[8j+7:8j] for j < n; none for FIN. No operand value is checked. -/
def Obligations.OperandsTakenFromCommandWord : Prop :=
  ∀ cw : CommandWord,
    (cw.extractLsb' 128 8 = 0x00 → decode cw = .command (.init (cw.extractLsb' 0 64) (cw.extractLsb' 64 64))) ∧
    (cw.extractLsb' 128 8 = 0x01 → decode cw = .command (.block (cw.extractLsb' 0 64))) ∧
    (cw.extractLsb' 133 3 = 0 → cw.extractLsb' 128 2 = 2 →
      ∃ remaining : List Byte, decode cw = .command (.last remaining) ∧
        remaining.length = (cw.extractLsb' 130 3).toNat ∧
        ∀ j (h : j < remaining.length), remaining[j] = cw.extractLsb' (8 * j) 8) ∧
    (cw.extractLsb' 128 8 = 0x03 → decode cw = .command .fin)

/-- Words written out from the formats of 30_encoding.md section 2 decode to the commands they stand for. -/
def Obligations.SampleWordsDecode : Prop :=
  decode 0x00_0f0e0d0c0b0a0908_0706050403020100 = .command (.init 0x0706050403020100 0x0f0e0d0c0b0a0908) ∧
  decode 0x01_ffffffffffffffff_0706050403020100 = .command (.block 0x0706050403020100) ∧
  decode 0x0e_1111111111111111_1111111111676f64 = .command (.last [0x64, 0x6f, 0x67]) ∧
  decode 0x03_0123456789abcdef_0123456789abcdef = .command .fin ∧
  decode 0x04_0000000000000000_0000000000000000 = .illegal .countWithoutLast ∧
  decode 0x22_0000000000000000_0000000000000000 = .illegal .reservedBits

/-! ### Command acceptance -/

/-- A step with a legally encoded command on offer, in any phase but FAULT, is exec of that command in the state without
the sample taken. -/
def Obligations.StepRunsDecodedCommand : Prop :=
  ∀ (s : State) (cw : CommandWord) (rest : List PortSample) (i : Instr),
    s.phase ≠ .fault →
    s.host = { rst := false, cmdValid := true, cmd := cw } :: rest →
    decode cw = .command i →
    step s = exec i { s with host := rest, draws := s.draws + 1 }

/-- The command word that withFetchWord places is the one the very next step runs, with the samples already to come after
it (the model's own convention, notes/assumptions/7.md and 12.md). -/
def Obligations.PlacedWordRunsNext : Prop :=
  ∀ (s : State) (nbits w : Nat) (i : Instr),
    s.phase ≠ .fault → decodeTableWord nbits w = some i →
    step (s.withFetchWord nbits w) = exec i { s with draws := s.draws + 1 }

/-- R144: the order of the checks on an accepted command: FAULT drops, then an illegal encoding, then a command out of
sequence, then execution, so a word both illegal and out of sequence reports IllegalCommand. -/
def Obligations.OrderOfChecks : Prop :=
  ∀ (s : State) (cw : CommandWord) (rest : List PortSample),
    s.host = PortSample.offer cw :: rest →
    let s' : State := { s with host := rest, draws := s.draws + 1 }
    (s.phase = .fault → step s = .next s') ∧
    (s.phase ≠ .fault → (∃ why, decode cw = .illegal why) →
      ∃ t : State, step s = .next t ∧ State.FaultEntry .illegalCommand s' t) ∧
    (s.phase ≠ .fault → ∀ i, decode cw = .command i →
      (match i with
        | .init _ _ => False
        | .block _ => s.phase ≠ .absorb
        | .last _ => s.phase ≠ .absorb
        | .fin => s.phase ≠ .padded) →
      ∃ t : State, step s = .next t ∧ State.FaultEntry .sequenceFault s' t) ∧
    (s.phase ≠ .fault → ∀ i, decode cw = .command i →
      (match i with
        | .init _ _ => True
        | .block _ => s.phase = .absorb
        | .last _ => s.phase = .absorb
        | .fin => s.phase = .padded) →
      step s = exec i s' ∧ ∃ t : State, exec i s' = .next t ∧ t.phase ≠ .fault)

/-- Nothing on offer: with no sample to come, or with `rst` and `cmd_valid` both 0 and any value on `cmd`, the engine holds
its state. -/
def Obligations.IdleEngineHoldsState : Prop :=
  (∀ s : State, s.host = [] → step s = .next { s with draws := s.draws + 1 }) ∧
  (∀ (s : State) (cmd : CommandWord) (rest : List PortSample),
    s.host = { rst := false, cmdValid := false, cmd := cmd } :: rest →
    step s = .next { s with host := rest, draws := s.draws + 1 })

/-- Every step answers a next state: no accepted command, no reset and no idle moment stops the engine. -/
def Obligations.EveryStepGoesOn : Prop :=
  ∀ s : State, ∃ t : State, step s = .next t

/-- No lookahead: what a step does is the same whatever samples come after the one it takes. For the free values that a
reset, a fault or an INIT leaves, this rests on their form (notes/assumptions/5.md, 10.md). -/
def Obligations.LaterSamplesHaveNoEffect : Prop :=
  ∀ (s t : State) (p : PortSample) (rest rest' : List PortSample),
    step { s with host := p :: rest } = .next t →
    step { s with host := p :: rest' } = .next { t with host := rest' }

/-! ### The phase table and the faults -/

/-- R25: the phase table. Every command, in every phase, goes to the phase the table gives, raises SequenceFault, or is
dropped with nothing changed. -/
def Obligations.PhaseTable : Prop :=
  ∀ (i : Instr) (s : State), i.wf = true →
    ∃ t : State, exec i s = .next t ∧
      match s.phase, i with
      | .fault, _ => t = s
      | .idle, .init _ _ => t.phase = .absorb
      | .absorb, .init _ _ => t.phase = .absorb
      | .absorb, .block _ => t.phase = .absorb
      | .absorb, .last _ => t.phase = .padded
      | .padded, .init _ _ => t.phase = .absorb
      | .padded, .fin => t.phase = .done
      | .done, .init _ _ => t.phase = .absorb
      | _, _ => State.FaultEntry .sequenceFault s t

/-- R141: the commands that raise SequenceFault, and where: BLOCK, LAST or FIN in IDLE; FIN in ABSORB; BLOCK or LAST in
PADDED; BLOCK, LAST or FIN in DONE. It records only its code. INIT never raises it. -/
def Obligations.SequenceFaultCases : Prop :=
  ∀ s : State,
    (s.phase = .idle ∨ s.phase = .padded ∨ s.phase = .done →
      ∀ m, ∃ t : State, exec (.block m) s = .next t ∧ State.FaultEntry .sequenceFault s t) ∧
    (s.phase = .idle ∨ s.phase = .padded ∨ s.phase = .done →
      ∀ remaining : List Byte, remaining.length ≤ 7 →
        ∃ t : State, exec (.last remaining) s = .next t ∧ State.FaultEntry .sequenceFault s t) ∧
    (s.phase = .idle ∨ s.phase = .absorb ∨ s.phase = .done →
      ∃ t : State, exec .fin s = .next t ∧ State.FaultEntry .sequenceFault s t) ∧
    (∀ (k0 k1 : Word) (u : State), exec (.init k0 k1) s = .next u → u.err = s.err)

/-- Fault entry (60_exceptions.md section 2): a step that enters FAULT accepted a command, which the decoder rejects when
ERRCODE is IllegalCommand and reads when it is SequenceFault; DVALID is 0, and nothing is saved. v0..v3, LEN and DIGEST,
which the command does not write and which are unspecified for every purpose afterwards, are free values: nothing is said
of them (notes/assumptions/10.md). -/
def Obligations.FaultEntryWritesThreeItems : Prop :=
  ∀ s t : State, s.phase ≠ .fault → step s = .next t → t.phase = .fault →
    State.FaultEntry t.err { s with host := s.host.tail, draws := s.draws + 1 } t ∧
    ∃ p rest, s.host = p :: rest ∧ p.rst = false ∧ p.cmdValid = true ∧
      (match t.err with
        | .none => False
        | .illegalCommand => ∃ why, decode p.cmd = .illegal why
        | .sequenceFault => ∃ i, decode p.cmd = .command i)

/-- R145: in phase FAULT every command, legal or not, is accepted and dropped; nothing changes, so ERRCODE keeps the code of
the first fault, and INIT does not leave the phase. -/
def Obligations.FaultDropsEveryCommand : Prop :=
  ∀ s : State, s.phase = .fault →
    (∀ (cw : CommandWord) (rest : List PortSample), s.host = PortSample.offer cw :: rest →
      step s = .next { s with host := rest, draws := s.draws + 1 }) ∧
    (∀ i : Instr, i.wf = true → exec i s = .next s) ∧
    s.cmdReadyPort = true

/-- R146: the only exit from phase FAULT is the reset event, which sets PHASE = IDLE and ERRCODE = 0. -/
def Obligations.OnlyResetLeavesFault : Prop :=
  ∀ s t : State, s.phase = .fault → step s = .next t → t.phase ≠ .fault →
    (∃ p rest, s.host = p :: rest ∧ p.rst = true) ∧ t.phase = .idle ∧ t.err = .none

/-- R160, R161: the reset event, from any phase and whatever command is offered with it, sets PHASE = IDLE, DVALID = 0 and
ERRCODE = 0 and leaves the parameters; the offered command is not accepted; a step that takes neither a reset nor a
command changes no state of the engine; and only a reset leaves FAULT. What the event leaves in v0..v3, LEN and DIGEST is
unspecified, and nothing is said of it. -/
def Obligations.ResetEventFromAnyState : Prop :=
  (∀ (s : State) (p : PortSample) (rest : List PortSample), s.host = p :: rest → p.rst = true →
    ∃ t : State, step s = .next t ∧ t.phase = .idle ∧ t.dvalid = false ∧ t.err = .none ∧ t.params = s.params ∧
      t.host = rest) ∧
  (∀ (s t t' : State) (cmdValid cmdValid' : Bool) (cmd cmd' : CommandWord) (rest : List PortSample),
    step { s with host := { rst := true, cmdValid := cmdValid, cmd := cmd } :: rest } = .next t →
    step { s with host := { rst := true, cmdValid := cmdValid', cmd := cmd' } :: rest } = .next t' →
    t.phase = t'.phase ∧ t.dvalid = t'.dvalid ∧ t.err = t'.err ∧ t.params = t'.params ∧ t.host = t'.host ∧
      t.statusPort = t'.statusPort) ∧
  (∀ s t : State, step s = .next t →
    (∀ p rest, s.host = p :: rest → p.rst = false ∧ p.cmdValid = false) →
    t = { s with host := s.host.tail, draws := s.draws + 1 }) ∧
  (∀ s t : State, step s = .next t → s.phase = .fault →
    (∀ p rest, s.host = p :: rest → p.rst = false) → t.phase = .fault)

/-! ### INIT -/

/-- R82: INIT k0, k1 in every phase but FAULT, whose control byte is 0x00 alone. ERRCODE is not written; of DIGEST, whose
value is unspecified from this point, nothing is said: the next state holds some digest. In FAULT the command is dropped; it
raises no SequenceFault. -/
def Obligations.InitLoadsKeyAndConstants : Prop :=
  ∀ (k0 k1 : Word) (s : State),
    (s.phase ≠ .fault →
      ∃ digest : Digest,
        exec (.init k0 k1) s =
          .next
            { s with
              v := { v0 := k0 ^^^ iv0, v1 := k1 ^^^ iv1, v2 := k0 ^^^ iv2, v3 := k1 ^^^ iv3 }
              len := 0
              dvalid := false
              phase := .absorb
              digest := digest }) ∧
    (s.phase = .fault → exec (.init k0 k1) s = .next s) ∧
    (∀ cw, decode cw = .command (.init k0 k1) → controlByte cw = 0x00)

/-- R83: nothing before FIN depends on the output width: two states that agree on v0..v3, LEN, PHASE and C agree on PHASE
after any command but FIN, and on v0..v3 and LEN unless it faulted or was dropped, whatever their widths. -/
def Obligations.WidthMattersOnlyInFin : Prop :=
  ∀ (i : Instr) (s s' t t' : State), i ≠ .fin →
    s.v = s'.v → s.len = s'.len → s.phase = s'.phase → s.params.c = s'.params.c →
    exec i s = .next t → exec i s' = .next t' →
    t.phase = t'.phase ∧ (t.phase ≠ .fault → t.v = t'.v ∧ t.len = t'.len)

/-- INIT loses nothing of the key, and the state it leaves satisfies v0 ^ v2 = IV0 ^ IV2 and v1 ^ v3 = IV1 ^ IV3, with the
values of the constants that 00_scope.md takes from general knowledge (notes/assumptions/2.md). -/
def Obligations.InitPatternOfStateWords : Prop :=
  (∀ k0 k1 k0' k1' : Word, initWords k0 k1 = initWords k0' k1' → k0 = k0' ∧ k1 = k1') ∧
  (∀ (k0 k1 : Word) (s t : State), s.phase ≠ .fault → exec (.init k0 k1) s = .next t →
    t.v.v0 ^^^ t.v.v2 = 0x1f160a001e161714 ∧ t.v.v1 ^^^ t.v.v3 = 0x100a160317100a1e)

/-! ### SipRound and the primitives -/

/-- R9: addition is modulo 2^64. -/
def Obligations.AdditionWraps : Prop :=
  ∀ a b : Word, (add64 a b).toNat = (a.toNat + b.toNat) % 2 ^ 64

/-- R10: rotl64 is the formula, and result bit (i + r) mod 64 equals bit i of x. -/
def Obligations.RotationMovesEveryBit : Prop :=
  ∀ (x : Word) (r : Nat), 0 < r → r < 64 →
    (rotl64 x r).toNat = ((x.toNat <<< r) % 2 ^ 64) ||| (x.toNat >>> (64 - r)) ∧
    ∀ i < 64, (rotl64 x r).getLsbD ((i + r) % 64) = x.getLsbD i

/-- R12: le64 of eight bytes is b0 + 2^8 b1 + ... + 2^56 b7, and byte b_i occupies bits 8i+7 .. 8i. -/
def Obligations.LittleEndianLoad : Prop :=
  ∀ b0 b1 b2 b3 b4 b5 b6 b7 : Byte,
    (le64 [b0, b1, b2, b3, b4, b5, b6, b7]).toNat =
      b0.toNat + 2 ^ 8 * b1.toNat + 2 ^ 16 * b2.toNat + 2 ^ 24 * b3.toNat + 2 ^ 32 * b4.toNat + 2 ^ 40 * b5.toNat +
        2 ^ 48 * b6.toNat + 2 ^ 56 * b7.toNat ∧
    wordBytes (le64 [b0, b1, b2, b3, b4, b5, b6, b7]) = [b0, b1, b2, b3, b4, b5, b6, b7]

/-- The round in closed form, each intermediate value named once (41_sipround.md section 1). -/
def Obligations.SipRoundClosedForm : Prop :=
  ∀ a b c d : Word,
    let a1 := a + b
    let b1 := b.rotateLeft 13 ^^^ a1
    let a2 := a1.rotateLeft 32
    let c1 := c + d
    let d1 := d.rotateLeft 16 ^^^ c1
    let a3 := a2 + d1
    let d2 := d1.rotateLeft 21 ^^^ a3
    let c2 := c1 + b1
    let b2 := b1.rotateLeft 17 ^^^ c2
    let c3 := c2.rotateLeft 32
    sipRound { v0 := a, v1 := b, v2 := c, v3 := d } = { v0 := a3, v1 := b2, v2 := c3, v3 := d2 }

/-- The datapath of two layers of parallel lanes computes the round (41_sipround.md section 1). -/
def Obligations.LayeredScheduleComputesRound : Prop :=
  ∀ w : Words, sipRoundLayered w = sipRound w

/-- The round is a bijection, undone by its lines in reverse order, and keeps the all-zero state (41_sipround.md section
1). -/
def Obligations.SipRoundIsBijective : Prop :=
  (∀ w : Words, sipRoundInverse (sipRound w) = w) ∧
  (∀ w : Words, sipRound (sipRoundInverse w) = w) ∧
  sipRound { v0 := 0, v1 := 0, v2 := 0, v3 := 0 } = { v0 := 0, v1 := 0, v2 := 0, v3 := 0 }

/-! ### BLOCK and LAST -/

/-- R100, R101: BLOCK m in ABSORB: v3 ^= m, `C` rounds, v0 ^= m; LEN + 8 modulo 256; PHASE stays ABSORB; nothing else is
written. In IDLE, PADDED and DONE it raises SequenceFault, in FAULT it is dropped; its control byte is 0x01 alone. For
every word m. -/
def Obligations.BlockAbsorbsWord : Prop :=
  ∀ (m : Word) (s : State),
    (s.phase = .absorb →
      let w := sipRound^[s.params.c] { s.v with v3 := s.v.v3 ^^^ m }
      ∃ len : Byte, len.toNat = (s.len.toNat + 8) % 256 ∧
        exec (.block m) s = .next { s with v := { w with v0 := w.v0 ^^^ m }, len := len, phase := .absorb }) ∧
    (s.phase = .idle ∨ s.phase = .padded ∨ s.phase = .done →
      ∃ t : State, exec (.block m) s = .next t ∧ State.FaultEntry .sequenceFault s t) ∧
    (s.phase = .fault → exec (.block m) s = .next s) ∧
    (∀ cw, decode cw = .command (.block m) → controlByte cw = 0x01)

/-- R102: LAST n, r_0 .. r_(n-1) in ABSORB, for every n in 0..7: m_last is the remaining bytes, zeros, and the length byte
(LEN + n) mod 256 in bits 63..56; it is absorbed with `C` rounds; PHASE becomes PADDED; LEN and everything else is
unchanged. In IDLE, PADDED and DONE it raises SequenceFault, in FAULT it is dropped; its control byte is 0x02 + 4 n. -/
def Obligations.LastAbsorbsPaddedBlock : Prop :=
  ∀ (remaining : List Byte) (s : State), remaining.length ≤ 7 →
    (s.phase = .absorb →
      ∃ m : Word,
        m.toNat =
          (∑ j : Fin remaining.length, 2 ^ (8 * (j : Nat)) * (remaining.get j).toNat) +
            2 ^ 56 * ((s.len.toNat + remaining.length) % 256) ∧
        let w := sipRound^[s.params.c] { s.v with v3 := s.v.v3 ^^^ m }
        exec (.last remaining) s = .next { s with v := { w with v0 := w.v0 ^^^ m }, phase := .padded }) ∧
    (s.phase = .idle ∨ s.phase = .padded ∨ s.phase = .done →
      ∃ t : State, exec (.last remaining) s = .next t ∧ State.FaultEntry .sequenceFault s t) ∧
    (s.phase = .fault → exec (.last remaining) s = .next s) ∧
    (∀ cw, decode cw = .command (.last remaining) → (controlByte cw).toNat = 0x02 + 4 * remaining.length)

/-- A LAST term of more than seven bytes is no command of the engine, since the count field has three bits: the model
refuses it by name (its own choice, notes/assumptions/11.md). -/
def Obligations.OverlongLastIsRefused : Prop :=
  ∀ (remaining : List Byte) (s : State), 7 < remaining.length →
    exec (.last remaining) s = .refused .illFormed ∧ ∀ cw, decode cw ≠ .command (.last remaining)

/-- LEN counts the message bytes absorbed, modulo 256: after INIT and q BLOCK commands, from any phase but FAULT, it is
8 q mod 256, and the phase is ABSORB. -/
def Obligations.LengthCountsBytes : Prop :=
  ∀ (s : State) (k0 k1 : Word) (blocks : List Word) (rest : List PortSample), s.phase ≠ .fault →
    s.host = issue (.init k0 k1 :: blocks.map Instr.block) ++ rest →
    ∃ t : State, Host.Core.run Sys2Proof.core (blocks.length + 1) s = .next t ∧
      t.len.toNat = 8 * blocks.length % 256 ∧ t.phase = .absorb ∧ t.host = rest

/-- The rounds inside a command as micro-steps on the hidden state RC and BUF reach the state the command's rule gives, once
at least `C` of them have run. -/
def Obligations.MicroStepsReachAbsorb : Prop :=
  ∀ (c ticks : Nat) (w : Words) (buf : List Byte), c ≤ ticks → microAbsorb c ticks w buf = absorb c w (le64 buf)

/-! ### FIN -/

/-- R111: FIN in PADDED, W = 64: v2 ^= 0xff, `D` rounds, DIGEST is the squeeze, DVALID = 1, PHASE = DONE; nothing else is
written. In IDLE, ABSORB and DONE it raises SequenceFault, in FAULT it is dropped; its control byte is 0x03 alone. -/
def Obligations.FinSqueezesNarrow : Prop :=
  ∀ s : State, s.params.width = .w64 →
    (s.phase = .padded →
      let w := sipRound^[s.params.d] { s.v with v2 := s.v.v2 ^^^ 0x00000000000000ff }
      exec .fin s =
        .next { s with v := w, digest := .narrow (w.v0 ^^^ w.v1 ^^^ w.v2 ^^^ w.v3), dvalid := true, phase := .done }) ∧
    (s.phase = .idle ∨ s.phase = .absorb ∨ s.phase = .done →
      ∃ t : State, exec .fin s = .next t ∧ State.FaultEntry .sequenceFault s t) ∧
    (s.phase = .fault → exec .fin s = .next s) ∧
    (∀ cw, decode cw = .command .fin → controlByte cw = 0x03)

/-- R112: FIN in PADDED, W = 128: v2 ^= 0xee, `D` rounds, first squeeze; v1 ^= 0xdd, `D` rounds, second squeeze;
DIGEST[63:0] is the first and DIGEST[127:64] the second. Faults and encoding as for W = 64. -/
def Obligations.FinSqueezesWide : Prop :=
  ∀ s : State, s.params.width = .w128 →
    (s.phase = .padded →
      let w := sipRound^[s.params.d] { s.v with v2 := s.v.v2 ^^^ 0x00000000000000ee }
      let w' := sipRound^[s.params.d] { w with v1 := w.v1 ^^^ 0x00000000000000dd }
      ∃ digest : BitVec 128,
        digest.extractLsb' 0 64 = w.v0 ^^^ w.v1 ^^^ w.v2 ^^^ w.v3 ∧
        digest.extractLsb' 64 64 = w'.v0 ^^^ w'.v1 ^^^ w'.v2 ^^^ w'.v3 ∧
        exec .fin s = .next { s with v := w', digest := .wide digest, dvalid := true, phase := .done }) ∧
    (s.phase = .idle ∨ s.phase = .absorb ∨ s.phase = .done →
      ∃ t : State, exec .fin s = .next t ∧ State.FaultEntry .sequenceFault s t) ∧
    (s.phase = .fault → exec .fin s = .next s) ∧
    (∀ cw, decode cw = .command .fin → controlByte cw = 0x03)

/-! ### Frames and whole-machine rules -/

/-- The frames: what each command leaves unchanged when it executes (a faulting command is said by State.FaultEntry, and a
dropped one changes nothing, by other statements). INIT keeps ERRCODE, and of DIGEST, which it leaves unspecified
(40_key_and_init.md section 3), nothing is said; BLOCK keeps DIGEST, DVALID and ERRCODE; LAST keeps these and LEN; FIN keeps
LEN and ERRCODE; none touches the parameters, the samples to come or the draws. The engine has no memory. -/
def Obligations.FramesOfCommands : Prop :=
  ∀ (i : Instr) (s t : State), exec i s = .next t → t.phase ≠ .fault →
    t.params = s.params ∧ t.host = s.host ∧ t.draws = s.draws ∧ t.err = s.err ∧
    (match i with
      | .init _ _ => True
      | .block _ => t.digest = s.digest ∧ t.dvalid = s.dvalid
      | .last _ => t.digest = s.digest ∧ t.dvalid = s.dvalid ∧ t.len = s.len
      | .fin => t.len = s.len)

/-- The parameters are configuration: no step, the reset event included, changes them. -/
def Obligations.ParametersNeverChange : Prop :=
  ∀ s t : State, step s = .next t → t.params = s.params

/-- R28: the status port carries PHASE in bits 2..0 (codes 0 to 4), DVALID in bit 3 and ERRCODE in bits 5..4 (codes 0 to 2);
5, 6 and 7, and 3, are never read; and nothing else, the parameters among it, shows on the port. -/
def Obligations.StatusPortLayout : Prop :=
  (∀ s : State,
    s.statusPort.extractLsb' 0 3 =
      (match s.phase with | .idle => 0 | .absorb => 1 | .padded => 2 | .done => 3 | .fault => 4) ∧
    s.statusPort.getLsbD 3 = s.dvalid ∧
    s.statusPort.extractLsb' 4 2 =
      (match s.err with | .none => 0 | .illegalCommand => 1 | .sequenceFault => 2)) ∧
  (∀ s s' : State, s.phase = s'.phase → s.dvalid = s'.dvalid → s.err = s'.err → s.statusPort = s'.statusPort)

/-- While DVALID = 1 the digest port shows DIGEST, and it has the instance's width at all times (10_state.md section 5).
Nothing is said of its value while DVALID = 0. -/
def Obligations.DigestPortShowsDigest : Prop :=
  ∀ s : State, s.Inv →
    (s.dvalid = true → s.digestPort = s.digest) ∧ s.digestPort.width = s.params.width

/-- R165: DVALID becomes 1 when FIN completes and stays 1, with DIGEST unchanged and on the port, until the next accepted
INIT, a fault or a reset. -/
def Obligations.DigestLifetime : Prop :=
  (∀ s t : State, exec .fin s = .next t → s.phase = .padded → t.dvalid = true ∧ t.digestPort = t.digest) ∧
  (∀ s t : State, s.Inv → s.dvalid = true → step s = .next t →
    (t.dvalid = true ∧ t.digest = s.digest ∧ t.digestPort = s.digestPort) ∨
    (∃ p rest, s.host = p :: rest ∧ p.rst = true) ∨
    (∃ p rest k0 k1, s.host = p :: rest ∧ p.rst = false ∧ p.cmdValid = true ∧ decode p.cmd = .command (.init k0 k1)) ∨
    t.phase = .fault)

/-- The state words do not escape: of two engines that agree on everything but v0..v3, every step shows the same status
and cmd_ready, and unless the step is a FIN accepted in PADDED, which squeezes them, they agree so again afterwards, and show
the same digest port while DVALID = 1. So it goes on over a run. LEN, DIGEST and the port count where the spec gives them a
value (R27, R33, R143), so no free value is compared. -/
def Obligations.StateWordsDoNotEscape : Prop :=
  ∀ s s' t t' : State, s.AgreeButWords s' → step s = .next t → step s' = .next t' →
    t.statusPort = t'.statusPort ∧ t.cmdReadyPort = t'.cmdReadyPort ∧
    ((t.AgreeButWords t' ∧ (t.dvalid = true → t.digestPort = t'.digestPort)) ∨
      (s.phase = .padded ∧ ∃ p rest, s.host = p :: rest ∧ p.rst = false ∧ p.cmdValid = true ∧ decode p.cmd = .command .fin))

/-! ### The transaction and the function computed -/

/-- The transaction computes SipHash: from every state outside FAULT, for every instance, key and message, the command
sequence INIT, BLOCK for each full block, LAST, FIN, in canonical encodings, leaves the digest of the function of
44_facade.md section 2, valid, on the port, in phase DONE. -/
def Obligations.TransactionComputesSipHash : Prop :=
  ∀ (s : State) (k0 k1 : Word) (msg : List Byte) (rest : List PortSample), s.phase ≠ .fault →
    s.host = issue (transaction k0 k1 msg) ++ rest →
    ∃ t : State, Host.Core.run Sys2Proof.core (transaction k0 k1 msg).length s = .next t ∧
      t.phase = .done ∧ t.dvalid = true ∧ t.err = s.err ∧ t.host = rest ∧
      t.digest = sipHash s.params k0 k1 msg ∧ t.digestPort = sipHash s.params k0 k1 msg

/-- Conversely, any stream INIT, BLOCK m_1 .. m_q, LAST n, FIN gives the SipHash of the message it spells: the little-endian
bytes of its blocks in order, then the bytes of LAST. -/
def Obligations.StreamHashesMessageItSpells : Prop :=
  ∀ (s : State) (k0 k1 : Word) (blocks : List Word) (remaining : List Byte) (rest : List PortSample),
    s.phase ≠ .fault → remaining.length ≤ 7 →
    s.host = issue (stream k0 k1 blocks remaining) ++ rest →
    ∃ t : State, Host.Core.run Sys2Proof.core (blocks.length + 3) s = .next t ∧ t.phase = .done ∧ t.dvalid = true ∧
      t.digest = sipHash s.params k0 k1 (spelledMessage blocks remaining)

/-- A transaction never faults: after each of its commands the engine is outside phase FAULT. -/
def Obligations.TransactionNeverFaults : Prop :=
  ∀ (s : State) (k0 k1 : Word) (msg : List Byte) (rest : List PortSample), s.phase ≠ .fault →
    s.host = issue (transaction k0 k1 msg) ++ rest →
    SafeRun (transaction k0 k1 msg).length s

/-- Independence: a transaction's outcome depends on nothing but the parameters and its own operands: not on the phase it
starts in (FAULT apart), not on earlier state words, LEN, DIGEST or draws, not on what comes after it. -/
def Obligations.DigestIndependentOfHistory : Prop :=
  ∀ (s s' t t' : State) (k0 k1 : Word) (msg : List Byte) (rest rest' : List PortSample),
    s.phase ≠ .fault → s'.phase ≠ .fault → s.params = s'.params →
    s.host = issue (transaction k0 k1 msg) ++ rest → s'.host = issue (transaction k0 k1 msg) ++ rest' →
    Host.Core.run Sys2Proof.core (transaction k0 k1 msg).length s = .next t →
    Host.Core.run Sys2Proof.core (transaction k0 k1 msg).length s' = .next t' →
    t.v = t'.v ∧ t.len = t'.len ∧ t.phase = t'.phase ∧ t.dvalid = t'.dvalid ∧ t.digest = t'.digest ∧
      t.digestPort = t'.digestPort

/-! ### The host's Normalizer -/

/-- R121: the three infallible key shapes: a word pair is used as it is; of a 128-bit integer, k0 is the low and k1 the high
64 bits, so the integer is INIT's data field as it stands; of a 16-byte array, k0 is the little-endian decode of bytes 0..7
and k1 of bytes 8..15, so byte j of the array is data lane j. -/
def Obligations.InfallibleKeyShapes : Prop :=
  (∀ k0 k1 : Word, normalizeKey (.wordPair k0 k1) = .key k0 k1) ∧
  (∀ x : BitVec 128,
    normalizeKey (.integer x) = .key (x.extractLsb' 0 64) (x.extractLsb' 64 64) ∧
    dataField (encode (.init (x.extractLsb' 0 64) (x.extractLsb' 64 64))) = x) ∧
  (∀ (b : Vector Byte 16) (k0 k1 : Word), normalizeKey (.byteArray b) = .key k0 k1 →
    k0 = le64 [b[0], b[1], b[2], b[3], b[4], b[5], b[6], b[7]] ∧
    k1 = le64 [b[8], b[9], b[10], b[11], b[12], b[13], b[14], b[15]] ∧
    ∀ j (h : j < 16), byteLane (dataField (encode (.init k0 k1))) j = b[j]) ∧
  (∀ b : Vector Byte 16, normalizeKey (.byteArray b) ≠ .keyTooShort)

/-- The four shapes of one key agree: the 128-bit integer, the array of its bytes, any byte slice that begins with them, and
the word pair. -/
def Obligations.KeyShapesAgree : Prop :=
  ∀ (x : BitVec 128) (b : Vector Byte 16) (more : List Byte),
    (∀ j (h : j < 16), b[j] = x.extractLsb' (8 * j) 8) →
    normalizeKey (.byteArray b) = normalizeKey (.integer x) ∧
    normalizeKey (.byteSlice (b.toList ++ more)) = normalizeKey (.integer x) ∧
    normalizeKey (.wordPair (x.extractLsb' 0 64) (x.extractLsb' 64 64)) = normalizeKey (.integer x)

/-- R122, R123: a byte sequence of fewer than 16 bytes fails with KeyTooShort, no command is issued and the
engine's state does not change; of one of at least 16 bytes only the first 16 count, decoded as the fixed array is, and it never fails. -/
def Obligations.ShortKeyIssuesNothing : Prop :=
  (∀ bytes msg : List Byte,
    (bytes.length < 16 →
      normalizeKey (.byteSlice bytes) = .keyTooShort ∧ facadeSamples (.byteSlice bytes) msg = none ∧
      ∀ polls s, facade polls (.byteSlice bytes) msg s = (.keyTooShort, s)) ∧
    (16 ≤ bytes.length →
      normalizeKey (.byteSlice bytes) ≠ .keyTooShort ∧ (facadeSamples (.byteSlice bytes) msg).isSome = true)) ∧
  (∀ (b : Vector Byte 16) (more : List Byte),
    normalizeKey (.byteSlice (b.toList ++ more)) = normalizeKey (.byteArray b))

/-! ### The facade -/

/-- The facade (44_facade.md section 2): on an engine in any phase but FAULT, however often the host is ready to poll, it
returns the SipHash of the message under the normalized key and leaves the engine in DONE with the digest on the port, or
it fails with KeyTooShort and leaves the engine as it was; as the single entry point it is a function of key material,
message, C, D and W. An engine in FAULT drops the transaction, and the wait goes on (the model's answer for a start that
the rule excludes, notes/assumptions/16.md). -/
def Obligations.FacadeReturnsDigestOrKeyTooShort : Prop :=
  (∀ (polls : Nat) (key : KeyMaterial) (msg : List Byte) (s : State),
    (∀ k0 k1, normalizeKey key = .key k0 k1 → s.phase ≠ .fault →
      ∃ t : State, facade polls key msg s = (.digest (sipHash s.params k0 k1 msg), t) ∧
        t.phase = .done ∧ t.dvalid = true ∧ t.digestPort = sipHash s.params k0 k1 msg ∧ t.params = s.params) ∧
    (normalizeKey key = .keyTooShort → facade polls key msg s = (.keyTooShort, s)) ∧
    (∀ k0 k1, normalizeKey key = .key k0 k1 → s.phase = .fault → s.Inv → (facade polls key msg s).1 = .waiting)) ∧
  (∀ (p : Params) (key : KeyMaterial) (msg : List Byte),
    digestFor p key msg =
      match normalizeKey key with
      | .key k0 k1 => .digest (sipHash p k0 k1 msg)
      | .keyTooShort => .keyTooShort)
end

