-- ==== Sys2Proof/Laws/Decode.lean ====
section
/-! SUPPORT. The decoder one branch at a time (spec/30_encoding.md R68). -/

namespace Sys2Proof

@[simp] theorem remainingBytes_length (data : DataField) (n : Nat) : (remainingBytes data n).length = n := by
  simp [remainingBytes]

theorem decode_of_reserved {cw : CommandWord} (h : reservedField (controlByte cw) ≠ 0) :
    decode cw = .illegal .reservedBits := by
  simp only [decode, if_pos h]

theorem decode_of_last {cw : CommandWord} (h : reservedField (controlByte cw) = 0) (hop : opField (controlByte cw) = 2) :
    decode cw = .command (.last (remainingBytes (dataField cw) (countField (controlByte cw)).toNat)) := by
  simp [decode, h, hop]

theorem decode_of_count {cw : CommandWord} (h : reservedField (controlByte cw) = 0) (hop : opField (controlByte cw) ≠ 2)
    (hn : countField (controlByte cw) ≠ 0) : decode cw = .illegal .countWithoutLast := by
  simp only [decode, h, ne_eq, not_true_eq_false, if_false, if_neg hop, if_pos hn]

theorem decode_of_init {cw : CommandWord} (h : controlByte cw = 0x00) :
    decode cw = .command (.init (lowWord (dataField cw)) (highWord (dataField cw))) := by
  simp [decode, h, reservedField, opField, countField]

theorem decode_of_block {cw : CommandWord} (h : controlByte cw = 0x01) :
    decode cw = .command (.block (lowWord (dataField cw))) := by
  simp [decode, h, reservedField, opField, countField]

theorem decode_of_fin {cw : CommandWord} (h : controlByte cw = 0x03) : decode cw = .command .fin := by
  simp [decode, h, reservedField, opField, countField]

/-- What the decoder answers is well formed: a 3-bit count is at most 7 (R63). -/
theorem wf_of_decode {cw : CommandWord} {i : Instr} (h : decode cw = .command i) : i.wf = true := by
  have hn := (countField (controlByte cw)).isLt
  simp only [decode] at h
  split at h
  · cases h
  split at h
  · cases h
    simp only [Instr.wf, countFits, remainingBytes_length, decide_eq_true_eq]
    omega
  split at h
  · cases h
  split at h
  · cases h; rfl
  split at h <;> cases h <;> rfl

@[simp] theorem controlByte_encode (i : Instr) : controlByte (encode i) = encodeControl i := by
  simp only [controlByte, encode]
  ext j hj
  simp only [BitVec.getElem_extractLsb', BitVec.getLsbD_append]
  split
  · omega
  · rw [show 128 + j - 128 = j by omega]; simp [hj]

@[simp] theorem dataField_encode (i : Instr) : dataField (encode i) = encodeData i := by
  simp only [dataField, encode]
  ext j hj
  simp only [BitVec.getElem_extractLsb', BitVec.getLsbD_append, Nat.zero_add, hj, if_true, BitVec.getLsbD_eq_getElem]

/-- Everything the decoder can answer, with the control bytes of each answer (R66, R67, R68). -/
theorem decode_cases (cw : CommandWord) :
    (reservedField (controlByte cw) ≠ 0 ∧ decode cw = .illegal .reservedBits) ∨
    (controlByte cw &&& 0xE3 = 0x02 ∧
      decode cw = .command (.last (remainingBytes (dataField cw) (countField (controlByte cw)).toNat))) ∨
    (reservedField (controlByte cw) = 0 ∧ opField (controlByte cw) ≠ 2 ∧ countField (controlByte cw) ≠ 0 ∧
      decode cw = .illegal .countWithoutLast) ∨
    (controlByte cw = 0x00 ∧ decode cw = .command (.init (lowWord (dataField cw)) (highWord (dataField cw)))) ∨
    (controlByte cw = 0x01 ∧ decode cw = .command (.block (lowWord (dataField cw)))) ∨
    (controlByte cw = 0x03 ∧ decode cw = .command .fin) := by
  have bytes : ∀ c : Byte,
      (reservedField c = 0 → opField c = 2 → c &&& 0xE3 = 0x02) ∧
      (reservedField c = 0 → countField c = 0 → opField c ≠ 2 → c = 0x00 ∨ c = 0x01 ∨ c = 0x03) := by
    decide
  by_cases hr : reservedField (controlByte cw) = 0
  · by_cases hop : opField (controlByte cw) = 2
    · exact .inr (.inl ⟨(bytes _).1 hr hop, decode_of_last hr hop⟩)
    · by_cases hn : countField (controlByte cw) = 0
      · rcases (bytes _).2 hr hn hop with h | h | h
        · exact .inr (.inr (.inr (.inl ⟨h, decode_of_init h⟩)))
        · exact .inr (.inr (.inr (.inr (.inl ⟨h, decode_of_block h⟩))))
        · exact .inr (.inr (.inr (.inr (.inr ⟨h, decode_of_fin h⟩))))
      · exact .inr (.inr (.inl ⟨hr, hop, hn, decode_of_count hr hop hn⟩))
  · exact .inl ⟨hr, decode_of_reserved hr⟩

@[simp] theorem lowWord_append (k1 k0 : Word) : lowWord (k1 ++ k0) = k0 := by
  simp only [lowWord]
  ext j hj
  simp only [BitVec.getElem_extractLsb', BitVec.getLsbD_append, Nat.zero_add, hj, if_true, BitVec.getLsbD_eq_getElem]

@[simp] theorem highWord_append (k1 k0 : Word) : highWord (k1 ++ k0) = k1 := by
  simp only [highWord]
  ext j hj
  simp only [BitVec.getElem_extractLsb', BitVec.getLsbD_append]
  rw [if_neg (by omega), show 64 + j - 64 = j by omega, BitVec.getLsbD_eq_getElem hj]

/-! ### Byte lists as numbers (R12) -/

theorem littleEndian_lt (bytes : List Byte) : littleEndian bytes < 2 ^ (8 * bytes.length) := by
  induction bytes with
  | nil => simp [littleEndian]
  | cons b bs ih =>
    have hb := b.isLt
    simp only [littleEndian, List.length_cons, Nat.mul_succ, pow_add]
    omega

theorem littleEndian_append (xs ys : List Byte) :
    littleEndian (xs ++ ys) = littleEndian xs + 2 ^ (8 * xs.length) * littleEndian ys := by
  induction xs with
  | nil => simp [littleEndian]
  | cons b bs ih =>
    simp only [List.cons_append, littleEndian, ih, List.length_cons, Nat.mul_succ, pow_add]
    ring

@[simp] theorem littleEndian_replicate_zero (n : Nat) : littleEndian (List.replicate n 0#8) = 0 := by
  induction n with
  | zero => rfl
  | succ n ih => simp [List.replicate_succ, littleEndian, ih]

/-- Byte `j` of the number is the `j`-th byte of the list. -/
theorem littleEndian_byte (bytes : List Byte) (j : Nat) (h : j < bytes.length) :
    littleEndian bytes / 2 ^ (8 * j) % 256 = bytes[j].toNat := by
  induction bytes generalizing j with
  | nil => simp at h
  | cons b bs ih =>
    have hb := b.isLt
    cases j with
    | zero => simp only [littleEndian, List.getElem_cons_zero]; omega
    | succ j =>
      simp only [littleEndian, List.getElem_cons_succ]
      rw [← ih j (by simpa using h), show 8 * (j + 1) = 8 + 8 * j by ring, pow_add, ← Nat.div_div_eq_div_mul]
      congr 2
      omega

/-- Byte lane `j` of a number that holds the list is the `j`-th byte of the list. -/
theorem lane_littleEndian (bytes : List Byte) (w j : Nat) (h : j < bytes.length) (hw : 8 * bytes.length ≤ w) :
    (BitVec.ofNat w (littleEndian bytes)).extractLsb' (8 * j) 8 = bytes[j] := by
  have hlt := lt_of_lt_of_le (littleEndian_lt bytes) (Nat.pow_le_pow_right (by norm_num) hw)
  apply BitVec.eq_of_toNat_eq
  rw [BitVec.extractLsb'_toNat, BitVec.toNat_ofNat, Nat.mod_eq_of_lt hlt, Nat.shiftRight_eq_div_pow]
  exact littleEndian_byte bytes j h

/-- The bytes of the low `n` lanes are the low `8 n` bits of the data field. -/
theorem littleEndian_remainingBytes (data : DataField) (n : Nat) :
    littleEndian (remainingBytes data n) = data.toNat % 2 ^ (8 * n) := by
  induction n with
  | zero => simp [remainingBytes, littleEndian, Nat.mod_one]
  | succ n ih =>
    have hsplit : remainingBytes data (n + 1) = remainingBytes data n ++ [byteLane data n] := by
      simp [remainingBytes, List.range_succ]
    rw [hsplit, littleEndian_append, ih, remainingBytes_length]
    simp only [littleEndian, byteLane, BitVec.extractLsb'_toNat, Nat.shiftRight_eq_div_pow]
    rw [show 8 * (n + 1) = 8 * n + 8 by ring, pow_add, Nat.mod_mul]
    ring

end Sys2Proof
end

