-- ==== Sys2Proof/Laws/State.lean ====
section
/-! SUPPORT. One lemma per field per update of State: fault entry, taking a sample, the reset event, the reset state. -/

namespace Sys2Proof.Machine

/-! ### Fault entry (R143) -/

@[simp] theorem takeFault_v (e : ErrCode) (s : State) : (takeFault e s).v = faultWords s.draws s.v := rfl
@[simp] theorem takeFault_len (e : ErrCode) (s : State) : (takeFault e s).len = Config.faultLength s.draws s.len := rfl
@[simp] theorem takeFault_phase (e : ErrCode) (s : State) : (takeFault e s).phase = .fault := rfl
@[simp] theorem takeFault_dvalid (e : ErrCode) (s : State) : (takeFault e s).dvalid = false := rfl
@[simp] theorem takeFault_err (e : ErrCode) (s : State) : (takeFault e s).err = e := rfl
@[simp] theorem takeFault_digest (e : ErrCode) (s : State) : (takeFault e s).digest = faultDigest s.draws s.digest := rfl
@[simp] theorem takeFault_params (e : ErrCode) (s : State) : (takeFault e s).params = s.params := rfl
@[simp] theorem takeFault_host (e : ErrCode) (s : State) : (takeFault e s).host = s.host := rfl
@[simp] theorem takeFault_draws (e : ErrCode) (s : State) : (takeFault e s).draws = s.draws := rfl

@[simp] theorem faultDigest_width (draw : Nat) (x : Digest) : (faultDigest draw x).width = x.width := by
  cases x <;> rfl

/-! ### Taking a sample of the ports -/

@[simp] theorem takeSample_v (s : State) : s.takeSample.v = s.v := rfl
@[simp] theorem takeSample_len (s : State) : s.takeSample.len = s.len := rfl
@[simp] theorem takeSample_phase (s : State) : s.takeSample.phase = s.phase := rfl
@[simp] theorem takeSample_dvalid (s : State) : s.takeSample.dvalid = s.dvalid := rfl
@[simp] theorem takeSample_err (s : State) : s.takeSample.err = s.err := rfl
@[simp] theorem takeSample_digest (s : State) : s.takeSample.digest = s.digest := rfl
@[simp] theorem takeSample_params (s : State) : s.takeSample.params = s.params := rfl
@[simp] theorem takeSample_host (s : State) : s.takeSample.host = s.host.tail := rfl
@[simp] theorem takeSample_draws (s : State) : s.takeSample.draws = s.draws + 1 := rfl

/-! ### The reset event (R160) -/

@[simp] theorem resetEvent_phase (s : State) : (resetEvent s).phase = .idle := rfl
@[simp] theorem resetEvent_dvalid (s : State) : (resetEvent s).dvalid = false := rfl
@[simp] theorem resetEvent_err (s : State) : (resetEvent s).err = .none := rfl
@[simp] theorem resetEvent_params (s : State) : (resetEvent s).params = s.params := rfl
@[simp] theorem resetEvent_host (s : State) : (resetEvent s).host = s.host := rfl
@[simp] theorem resetEvent_draws (s : State) : (resetEvent s).draws = s.draws := rfl
@[simp] theorem resetEvent_digest (s : State) :
    (resetEvent s).digest = freeDigest s.params.width s.draws := rfl

@[simp] theorem freeDigest_width (w : OutputWidth) (draw : Nat) : (freeDigest w draw).width = w := by
  cases w <;> rfl

/-! ### The state after reset (R31) -/

@[simp] theorem resetOf_phase (p : Params) : (State.resetOf p).phase = .idle := rfl
@[simp] theorem resetOf_dvalid (p : Params) : (State.resetOf p).dvalid = false := rfl
@[simp] theorem resetOf_err (p : Params) : (State.resetOf p).err = .none := rfl
@[simp] theorem resetOf_params (p : Params) : (State.resetOf p).params = p := rfl
@[simp] theorem resetOf_host (p : Params) : (State.resetOf p).host = [] := rfl
@[simp] theorem resetOf_digest (p : Params) : (State.resetOf p).digest = .zero p.width := rfl

@[simp] theorem digestZero_width (w : OutputWidth) : (Digest.zero w).width = w := by
  cases w <;> rfl

/-! ### The effects of the commands -/

@[simp] theorem initEffect_v (k0 k1 : Word) (s : State) : (initEffect k0 k1 s).v = initWords k0 k1 := rfl
@[simp] theorem initEffect_len (k0 k1 : Word) (s : State) : (initEffect k0 k1 s).len = 0 := rfl
@[simp] theorem initEffect_dvalid (k0 k1 : Word) (s : State) : (initEffect k0 k1 s).dvalid = false := rfl
@[simp] theorem initEffect_err (k0 k1 : Word) (s : State) : (initEffect k0 k1 s).err = s.err := rfl
@[simp] theorem initEffect_digest (k0 k1 : Word) (s : State) :
    (initEffect k0 k1 s).digest = initDigest s.draws s.digest := rfl
@[simp] theorem initEffect_params (k0 k1 : Word) (s : State) : (initEffect k0 k1 s).params = s.params := rfl
@[simp] theorem initEffect_host (k0 k1 : Word) (s : State) : (initEffect k0 k1 s).host = s.host := rfl
@[simp] theorem initEffect_draws (k0 k1 : Word) (s : State) : (initEffect k0 k1 s).draws = s.draws := rfl

@[simp] theorem initDigest_width (draw : Nat) (x : Digest) : (initDigest draw x).width = x.width := by
  cases x <;> rfl

@[simp] theorem finalize_width (p : Params) (w : Words) : (finalize p w).2.width = p.width := by
  unfold finalize
  split <;> simp_all [finalizeNarrow, finalizeWide, Digest.width]

end Sys2Proof.Machine
end

