-- ==== Sys2Proof/Laws/Ops.lean ====
section
/-! SUPPORT. One lemma per shared operation: the phase table's cases, rotation, the rounds as an
iteration, the padded buffer, the commands of a transaction, the wait and the facade. -/

namespace Sys2Proof.Machine

/-- Everything a sequenced command can do (R25). -/
theorem sequenced_cases (c : Command) (effect : State → State) (s : State) :
    (∃ next, phaseTable s.phase c = .go next ∧ sequenced c effect s = { effect s with phase := next }) ∨
    (phaseTable s.phase c = .seq ∧ sequenced c effect s = takeFault .sequenceFault s) ∨
    (phaseTable s.phase c = .drop ∧ sequenced c effect s = s) := by
  unfold sequenced
  cases phaseTable s.phase c with
  | go next => exact .inl ⟨next, rfl, rfl⟩
  | seq => exact .inr (.inl ⟨rfl, rfl⟩)
  | drop => exact .inr (.inr ⟨rfl, rfl⟩)

theorem sequenced_go {c : Command} {s : State} {next : Phase} (effect : State → State)
    (h : phaseTable s.phase c = .go next) : sequenced c effect s = { effect s with phase := next } := by
  simp [sequenced, h]

theorem sequenced_seq {c : Command} {s : State} (effect : State → State)
    (h : phaseTable s.phase c = .seq) : sequenced c effect s = takeFault .sequenceFault s := by
  simp [sequenced, h]

theorem sequenced_drop {c : Command} {s : State} (effect : State → State)
    (h : phaseTable s.phase c = .drop) : sequenced c effect s = s := by
  simp [sequenced, h]

/-- The table drops in FAULT and nowhere else (R25). -/
theorem phaseTable_drop_iff (p : Phase) (c : Command) : phaseTable p c = .drop ↔ p = .fault := by
  cases p <;> cases c <;> decide

/-- No command goes to FAULT: it is entered by a fault alone (R25). -/
theorem phaseTable_go_ne_fault (p : Phase) (c : Command) : phaseTable p c ≠ .go .fault := by
  cases p <;> cases c <;> decide

/-- The rotation of R10 is the library's, for the amounts that occur. -/
theorem rotl64_eq_rotateLeft (x : Word) {r : Nat} (h : r < 64) : rotl64 x r = x.rotateLeft r := by
  rw [BitVec.rotateLeft_def, Nat.mod_eq_of_lt h]
  rfl

@[simp] theorem sipRounds_zero (w : Words) : sipRounds 0 w = w := rfl

theorem sipRounds_succ (n : Nat) (w : Words) : sipRounds (n + 1) w = sipRounds n (sipRound w) := rfl

/-- The rounds are the round iterated (R93). -/
theorem sipRounds_eq_iterate (n : Nat) (w : Words) : sipRounds n w = sipRound^[n] w := by
  induction n generalizing w with
  | zero => rfl
  | succ n ih => exact ih (sipRound w)

@[simp] theorem paddedBuffer_length {len : Byte} {remaining : List Byte} (h : remaining.length ≤ 7) :
    (paddedBuffer len remaining).length = 8 := by
  simp only [paddedBuffer, List.length_append, List.length_replicate, List.length_cons, List.length_nil]
  omega

/-- The stream of a transaction has one command per block and three more (R125). -/
@[simp] theorem stream_length (k0 k1 : Word) (blocks : List Word) (remaining : List Byte) :
    (stream k0 k1 blocks remaining).length = blocks.length + 3 := by
  simp [stream]

@[simp] theorem messageWords_length (msg : List Byte) : (messageWords msg).length = msg.length / 8 := by
  simp [messageWords]

@[simp] theorem messageTail_length (msg : List Byte) : (messageTail msg).length = msg.length % 8 := by
  simp only [messageTail, List.length_drop]
  omega

@[simp] theorem issue_cons (i : Instr) (is : List Instr) : issue (i :: is) = PortSample.offer (encode i) :: issue is := rfl

@[simp] theorem issue_append (xs ys : List Instr) : issue (xs ++ ys) = issue xs ++ issue ys := by
  simp [issue]

/-! ### The wait and the facade (R125) -/

/-- The bit of `status` the host waits for is DVALID (R28). -/
@[simp] theorem statusPort_dvalid (s : State) : s.statusPort.getLsbD 3 = s.dvalid := by
  have bit : ∀ (e : ErrCode) (b : Bool) (p : Phase), (statusBits e b p).getLsbD 3 = b := by
    intro e b p
    cases e <;> cases b <;> cases p <;> decide
  exact bit _ _ _

/-- A wait that finds DVALID = 1 returns the digest port at once. -/
theorem awaitDigest_of_valid (polls : Nat) {s : State} (h : s.dvalid = true) :
    awaitDigest polls s = (.digest s.digestPort, s) := by
  cases polls <;> simp only [awaitDigest, statusPort_dvalid, h, if_true]

/-- A wait on an idle engine with DVALID = 0 goes on: nothing but a command or a reset changes DVALID (R151). -/
theorem awaitDigest_of_idle (polls : Nat) {s : State} (h : s.dvalid = false) (hh : s.host = []) :
    (awaitDigest polls s).1 = .waiting := by
  induction polls generalizing s with
  | zero => simp only [awaitDigest, statusPort_dvalid, h, Bool.false_eq_true, if_false]
  | succ polls ih =>
    have hs : step s = .next s.takeSample := by simp [step, hh]
    simp only [awaitDigest, statusPort_dvalid, h, Bool.false_eq_true, if_false, hs]
    exact ih (s := s.takeSample) h (by simp [hh])

theorem facade_of_keyTooShort {key : KeyMaterial} (polls : Nat) (msg : List Byte) (s : State)
    (h : normalizeKey key = .keyTooShort) : facade polls key msg s = (.keyTooShort, s) := by
  simp [facade, h]

theorem facade_of_key {key : KeyMaterial} {k0 k1 : Word} (polls : Nat) (msg : List Byte) (s : State)
    (h : normalizeKey key = .key k0 k1) : facade polls key msg s = hashMessage polls k0 k1 msg s := by
  simp [facade, h]

end Sys2Proof.Machine
end

