-- ==== Sys2Proof/Laws/PerInstr.lean ====
section
/-! SUPPORT. Facts made per command, of the command as syntax: its canonical control byte is one of the legal ones
(spec/30_encoding.md R66). -/

namespace Sys2Proof.Laws.LegalControl

/-- The control byte of a well-formed command's encoding is legal: `rsv = 0` and either `op = 2` or `n = 0` (R66). -/
def Statement (i : Instr) : Prop :=
  i.wf = true →
    reservedField (encodeControl i) = 0 ∧ (opField (encodeControl i) = 2 ∨ countField (encodeControl i) = 0)

theorem init (k0 k1 : Word) : Statement (.init k0 k1) := fun _ => by
  simp [encodeControl, reservedField, countField]

theorem block (m : Word) : Statement (.block m) := fun _ => by
  simp [encodeControl, reservedField, countField]

theorem last (remaining : List Byte) : Statement (.last remaining) := fun h => by
  have hlen : remaining.length < 8 := by
    have : remaining.length ≤ 7 := by simpa [Instr.wf, countFits] using h
    omega
  have all : ∀ n < 8, reservedField (0x02 + 4 * BitVec.ofNat 8 n) = 0 ∧ opField (0x02 + 4 * BitVec.ofNat 8 n) = 2 := by
    decide
  exact ⟨(all _ hlen).1, .inl (all _ hlen).2⟩

theorem fin : Statement .fin := fun _ => by
  simp [encodeControl, reservedField, countField]

end Sys2Proof.Laws.LegalControl
end

