-- ==== Sys2Proof/Laws/Step.lean ====
section
/-! SUPPORT. What a command and a step can do, said once: the lemmas later proofs cite in place of unfolding them. -/

namespace Sys2Proof.Machine

/-- The row of the phase table a command term belongs to. -/
def commandOf : Instr → Command
  | .init _ _ => .init
  | .block _ => .block
  | .last _ => .last
  | .fin => .fin

/-- A command term's own effect, before the phase is written. -/
def effectOf : Instr → State → State
  | .init k0 k1 => initEffect k0 k1
  | .block m => blockEffect m
  | .last remaining => lastEffect remaining
  | .fin => finEffect

/-- A well-formed command is its effect under the phase table, and always goes on. -/
theorem exec_of_wf {i : Instr} (h : i.wf = true) (s : State) :
    exec i s = .next (sequenced (commandOf i) (effectOf i) s) := by
  cases i with
  | init k0 k1 => rfl
  | block m => rfl
  | last remaining =>
    have h' : countFits remaining = true := h
    simp [exec, execLast, h', commandOf, effectOf]
  | fin => rfl

/-- An ill-formed command term is refused. -/
theorem exec_of_not_wf {i : Instr} (h : i.wf = false) (s : State) : exec i s = .refused .illFormed := by
  cases i with
  | last remaining =>
    have h' : countFits remaining = false := h
    simp [exec, execLast, h']
  | init | block | fin => exact absurd h (by simp [Instr.wf])

/-- A command that answers a next state is well formed, and answers its effect under the phase table. -/
theorem exec_next_iff {i : Instr} {s t : State} :
    exec i s = .next t ↔ i.wf = true ∧ t = sequenced (commandOf i) (effectOf i) s := by
  cases h : i.wf with
  | true => rw [exec_of_wf h]; simp [eq_comm]
  | false => rw [exec_of_not_wf h]; simp

/-- In FAULT a well-formed command changes nothing (R25, R145). -/
theorem exec_in_fault {i : Instr} {s : State} (h : i.wf = true) (hp : s.phase = .fault) : exec i s = .next s := by
  rw [exec_of_wf h, sequenced_drop _ ((phaseTable_drop_iff _ _).2 hp)]

/-- No command's effect touches the instance, the samples to come, the draws or the error code. -/
theorem effectOf_frame (i : Instr) (s : State) :
    (effectOf i s).params = s.params ∧ (effectOf i s).host = s.host ∧ (effectOf i s).draws = s.draws ∧
      (effectOf i s).err = s.err := by
  cases i <;> exact ⟨rfl, rfl, rfl, rfl⟩

/-- Everything fault entry gives a value to (R143). -/
theorem takeFault_faultEntry (e : ErrCode) (s : State) : State.FaultEntry e s (takeFault e s) :=
  ⟨rfl, rfl, rfl, rfl, rfl, rfl⟩

/-- Everything an accepted command word can do (R144). -/
theorem accept_cases (cw : CommandWord) (s : State) :
    (s.phase = .fault ∧ accept cw s = .next s) ∨
    (s.phase ≠ .fault ∧ (∃ why, decode cw = .illegal why) ∧ accept cw s = .next (takeFault .illegalCommand s)) ∨
    (s.phase ≠ .fault ∧ ∃ i, decode cw = .command i ∧ i.wf = true ∧
      accept cw s = .next (sequenced (commandOf i) (effectOf i) s)) := by
  unfold accept
  by_cases hp : s.phase = .fault
  · exact .inl ⟨hp, by simp [hp]⟩
  · refine .inr ?_
    cases hd : decode cw with
    | illegal why => exact .inl ⟨hp, ⟨why, rfl⟩, by simp [hp]⟩
    | command i =>
      have hw := wf_of_decode hd
      exact .inr ⟨hp, i, rfl, hw, by simp [hp, exec_of_wf hw]⟩

/-- Everything a step can do: the idle engine holds, `rst` wins, or a command word is accepted (R61, R161). -/
theorem step_cases (s : State) :
    ((s.host = [] ∨ ∃ p rest, s.host = p :: rest ∧ p.rst = false ∧ p.cmdValid = false) ∧
      step s = .next s.takeSample) ∨
    ((∃ p rest, s.host = p :: rest ∧ p.rst = true) ∧ step s = .next (resetEvent s.takeSample)) ∨
    (∃ p rest, s.host = p :: rest ∧ p.rst = false ∧ p.cmdValid = true ∧ step s = accept p.cmd s.takeSample) := by
  unfold step
  cases hh : s.host with
  | nil => exact .inl ⟨.inl rfl, rfl⟩
  | cons p rest =>
    cases hr : p.rst with
    | true => exact .inr (.inl ⟨⟨p, rest, rfl, hr⟩, by simp [serve, hr]⟩)
    | false =>
      cases hv : p.cmdValid with
      | true => exact .inr (.inr ⟨p, rest, rfl, hr, hv, by simp [serve, hr, hv]⟩)
      | false => exact .inl ⟨.inr ⟨p, rest, rfl, hr, hv⟩, by simp [serve, hr, hv]⟩

/-- A step with a command on offer accepts it. -/
theorem step_offer {s : State} {cw : CommandWord} {rest : List PortSample} (h : s.host = PortSample.offer cw :: rest) :
    step s = accept cw s.takeSample := by
  simp [step, h, serve, PortSample.offer]

/-- A run of `k + 1` steps whose first answers a next state goes on from there. -/
theorem run_succ {k : Nat} {s t : State} (h : step s = .next t) :
    Host.Core.run core (k + 1) s = Host.Core.run core k t := by
  have h' : Host.Core.step core s = .next t := h
  simp only [Host.Core.run, h']

end Sys2Proof.Machine
end

