-- ==== Sys2Proof/Tests/Slice0.lean ====
section
/-! SUPPORT. The model's own tests. Expected values are those of spec/95_test_vectors.md and of the worked examples in
the rules, named at each test; then one witness per statement that has hypotheses. -/

namespace Sys2Proof.Tests

open Sys2Proof Sys2Proof.Machine

/-! ### Helpers -/

/-- A small state of a 64-bit SipHash-2-4 in a phase, with state words 1, 2, 3, 4. -/
def inPhase (phase : Phase) : State :=
  { State.reset with
    v := { v0 := 1, v1 := 2, v2 := 3, v3 := 4 }
    phase := phase
    dvalid := decide (phase = .done)
    err := if phase = .fault then .sequenceFault else .none }

/-- The same with 128-bit output. -/
def inPhaseWide (phase : Phase) : State :=
  { inPhase phase with params := Params.sipHash24Wide, digest := .wide 0 }

/-- A state with a command word on offer. -/
def offered (cw : CommandWord) (s : State) : State := { s with host := [PortSample.offer cw] }

/-- What is left of an outcome when it is a next state. -/
def goesOn : Outcome → Option State
  | .next s => some s
  | .fault _ => none
  | .refused _ => none

/-- The status after each command word of a sequence, starting from reset. -/
def statusTrace : List CommandWord → State → List (BitVec 6)
  | [], _ => []
  | cw :: rest, s =>
    match accept cw s with
    | .next t => t.statusPort :: statusTrace rest t
    | .fault _ => []
    | .refused _ => []

/-- The standard key of 95_test_vectors.md section 1. -/
def stdK0 : Word := 0x0706050403020100
def stdK1 : Word := 0x0f0e0d0c0b0a0908

/-- The standard message of length `n`: bytes 00, 01, ... -/
def stdMessage (n : Nat) : List Byte := (List.range n).map (BitVec.ofNat 8)

/-! ### WellFormed: an ill-formed term for its one check -/

theorem test_wf_refuses_last_of_eight_bytes : (Instr.last [0, 1, 2, 3, 4, 5, 6, 7]).wf = false := by decide
theorem test_wf_accepts_last_of_seven_bytes : (Instr.last [0, 1, 2, 3, 4, 5, 6]).wf = true := by decide

/-! ### Decode: words of 95_test_vectors.md section 8, written out from the formats of R64 -/

theorem test_decode_init :
    decode 0x00_0f0e0d0c0b0a0908_0706050403020100 = .command (.init 0x0706050403020100 0x0f0e0d0c0b0a0908) := by decide
theorem test_decode_block_ignores_high_data :
    decode 0x01_ffffffffffffffff_0706050403020100 = .command (.block 0x0706050403020100) := by decide
theorem test_decode_last_none : decode 0x02_ffffffffffffffff_ffffffffffffffff = .command (.last []) := by decide
theorem test_decode_last_seven_ignores_lane_seven :
    decode 0x1e_0000000000000000_ff0e0d0c0b0a0908 =
      .command (.last [0x08, 0x09, 0x0a, 0x0b, 0x0c, 0x0d, 0x0e]) := by decide
theorem test_decode_fin : decode 0x03_0123456789abcdef_0123456789abcdef = .command .fin := by decide
theorem test_decode_rejects_counts :
    [0x04, 0x05, 0x07, 0x1f, 0x1c].map (fun ctl : Nat => decode (BitVec.ofNat 136 (ctl * 2 ^ 128))) =
      List.replicate 5 (.illegal .countWithoutLast) := by decide
theorem test_decode_rejects_reserved :
    [0x20, 0x22, 0x82, 0xff].map (fun ctl : Nat => decode (BitVec.ofNat 136 (ctl * 2 ^ 128))) =
      List.replicate 4 (.illegal .reservedBits) := by decide

/-- The canonical encodings printed in 95_test_vectors.md P1. -/
theorem test_encode_p1 :
    [encode (.init stdK0 stdK1), encode (.block stdK0), encode (.last [8, 9, 10, 11, 12, 13, 14]), encode .fin] =
      [0x00_0f0e0d0c0b0a0908_0706050403020100, 0x01_0000000000000000_0706050403020100,
        0x1e_0000000000000000_000e0d0c0b0a0908, 0x03_0000000000000000_0000000000000000] := by decide

/-- The opcode table numbers the control byte as bits 7..0 (its `fixed` fields). -/
theorem test_table_words :
    [decodeTableWord 8 0, decodeTableWord 8 1, decodeTableWord 8 2, decodeTableWord 8 3, decodeTableWord 8 4] =
      [some (.init 0 0), some (.block 0), some (.last []), some .fin, none] := by decide

/-! ### SipRound, Absorb and finalization: 95_test_vectors.md sections 3, 5 and 6, which rest on no constant of R7 -/

theorem test_sipRound_r6_all_additions_wrap :
    sipRound { v0 := 0xffffffffffffffff, v1 := 0xffffffffffffffff, v2 := 0xffffffffffffffff, v3 := 0xffffffffffffffff } =
      { v0 := 0xffffffff00000000, v1 := 0xfffffffffffdffff, v2 := 0xffffffffffffffff, v3 := 0xffffffff00200000 } := by
  decide
theorem test_sipRound_r9 :
    sipRound { v0 := 0x0123456789abcdef, v1 := 0xfedcba9876543210, v2 := 0x0f1e2d3c4b5a6978, v3 := 0x8796a5b4c3d2e1f0 } =
      { v0 := 0x33001123eeddccfd, v1 := 0x1d0b375d48a3fad5, v2 := 0x88eb2b8cff61c426, v3 := 0x177dca9a711bacff } := by
  decide
theorem test_absorb_a7 :
    absorb 2 { v0 := 1, v1 := 2, v2 := 3, v3 := 4 } 0x8000000000000000 =
      { v0 := 0x809e007a00f3000a, v1 := 0xa006c0b7e9221018, v2 := 0xc9001018800050a0, v3 := 0x0dbe1e1a00031262 } := by
  decide

/-! ### INIT: the example of R82, from ABSORB with a stale DVALID and LEN -/

theorem test_init_example :
    (goesOn (exec (.init stdK0 stdK1) { inPhase .done with len := 0x55 })).map (fun t => (t.v, t.len, t.dvalid, t.phase)) =
      some ({ v0 := 0x7469686173716475, v1 := 0x6b617f6d656e6665, v2 := 0x6b7f62616d677361, v3 := 0x7b6b696e727e6c7b },
        0, false, .absorb) := by decide

/-! ### BLOCK: the example of R101, and LEN's wrap at the 32nd block -/

theorem test_block_example :
    (goesOn (exec (.block 0x0706050403020100) { inPhase .absorb with v := initWords stdK0 stdK1 })).map
        (fun t => (t.v, t.len, t.phase)) =
      some ({ v0 := 0x4a017198de0a59e0, v1 := 0x0d52f6f62a4f59a4, v2 := 0x634cb3577b01fd3d, v3 := 0xa5224d6f55c7d9c8 },
        8, .absorb) := by decide
theorem test_block_length_wraps :
    (goesOn (exec (.block 0) { inPhase .absorb with len := 248 })).map (·.len) = some 0 := by decide

/-! ### LAST: the example of R102, and m_last for L = 255 and 43 of 95_test_vectors.md section 5.2 -/

theorem test_last_example :
    (goesOn (exec (.last [8, 9, 10, 11, 12, 13, 14])
        { inPhase .absorb with
          v := { v0 := 0x4a017198de0a59e0, v1 := 0x0d52f6f62a4f59a4, v2 := 0x634cb3577b01fd3d, v3 := 0xa5224d6f55c7d9c8 }
          len := 8 })).map (fun t => (t.v, t.len, t.phase)) =
      some ({ v0 := 0x3c85b3ab6f55be51, v1 := 0x414fc3fb98efe374, v2 := 0xccf13ea527b9f4bd, v3 := 0x5293f5da84008f82 },
        8, .padded) := by decide
theorem test_lastWord_values :
    [lastWord 248 [0xf8, 0xf9, 0xfa, 0xfb, 0xfc, 0xfd, 0xfe], lastWord 40 [0x64, 0x6f, 0x67], lastWord 0 []] =
      [0xfffefdfcfbfaf9f8, 0x2b00000000676f64, 0] := by decide

/-! ### FIN: the examples of R111 and R112 -/

theorem test_fin_narrow_example :
    (goesOn (exec .fin
        { inPhase .padded with
          v := { v0 := 0x3c85b3ab6f55be51, v1 := 0x414fc3fb98efe374, v2 := 0xccf13ea527b9f4bd, v3 := 0x5293f5da84008f82 } })).map
        (fun t => (t.digest, t.dvalid, t.phase)) =
      some (.narrow 0xa129ca6149be45e5, true, .done) := by decide
theorem test_fin_wide_example :
    (goesOn (exec .fin
        { inPhaseWide .padded with
          v := { v0 := 0x3c85b3ab6f55be51, v1 := 0x414fc3fb98efe374, v2 := 0xccf13ea527b9f4bd, v3 := 0x5293f5da84008f82 } })).map
        (fun t => (t.digest, t.digestPort)) =
      some (.wide 0x5163778013caff1d2152a4ce598ec92f, .wide 0x5163778013caff1d2152a4ce598ec92f) := by decide

/-! ### Phases and faults: sequences of 95_test_vectors.md section 9 -/

/-- Q-5 and Q-8: the shortest transaction, then a FIN in DONE, which withdraws the digest. -/
theorem test_status_q8 :
    statusTrace [encode (.init 0 0), encode (.last []), encode .fin, encode .fin] State.reset = [0x01, 0x02, 0x0b, 0x24] := by
  decide
/-- Q-15: in FAULT everything is dropped, and ERRCODE keeps the first code. -/
theorem test_status_q15 :
    statusTrace [encode (.block 0), encode (.init 0 0), BitVec.ofNat 136 (0xff * 2 ^ 128), encode .fin] State.reset =
      [0x24, 0x24, 0x24, 0x24] := by decide
/-- Q-13: an illegal encoding out of sequence reports IllegalCommand. -/
theorem test_status_q13 : statusTrace [BitVec.ofNat 136 (0x07 * 2 ^ 128)] State.reset = [0x14] := by decide
/-- Q-17: reset leaves FAULT. -/
theorem test_reset_leaves_fault :
    (goesOn (step { inPhase .fault with host := [PortSample.reset] })).map (·.statusPort) = some 0 := by decide

/-! ### The function computed: the digests the source prints (95_test_vectors.md S1, S2) -/

theorem test_sipHash_s1 : sipHash Params.sipHash24 stdK0 stdK1 (stdMessage 15) = .narrow 0xa129ca6149be45e5 := by decide
theorem test_sipHash_s2 :
    sipHash Params.sipHash24 0x3736353433323130 0x4645444342413938
        [0x54, 0x68, 0x65, 0x20, 0x71, 0x75, 0x69, 0x63, 0x6b, 0x20, 0x62, 0x72, 0x6f, 0x77, 0x6e, 0x20, 0x66, 0x6f, 0x78, 0x20,
          0x6a, 0x75, 0x6d, 0x70, 0x73, 0x20, 0x6f, 0x76, 0x65, 0x72, 0x20, 0x74, 0x68, 0x65, 0x20, 0x6c, 0x61, 0x7a, 0x79, 0x20,
          0x64, 0x6f, 0x67] =
      .narrow 0x19cce661759c2a06 := by decide +kernel

/-! ### The facade: S1 with the key as a byte slice of 20 bytes (R122), and a key of 15 bytes (R123) -/

theorem test_facade_s1 :
    digestFor Params.sipHash24 (.byteSlice (stdMessage 20)) (stdMessage 15) = .digest (.narrow 0xa129ca6149be45e5) := by
  decide +kernel
theorem test_facade_keyTooShort :
    digestFor Params.sipHash24 (.byteSlice (stdMessage 15)) (stdMessage 15) = .keyTooShort := by decide

/-! ### Witnesses: for each statement with hypotheses, a concrete input that meets them -/

theorem witness_StepKeepsInvariant :
    (offered (encode (.block 7)) { inPhase .absorb with len := 248 }).Inv ∧
      (goesOn (step (offered (encode (.block 7)) { inPhase .absorb with len := 248 }))).isSome = true := by decide
theorem witness_DecodeEncodeAgree : (Instr.last [1, 2, 3, 4, 5, 6, 255]).wf = true := by decide
theorem witness_EncodeOfDecodedClearsIgnoredBits :
    decode 0x0e_1111111111111111_1111111111676f64 = .command (.last [0x64, 0x6f, 0x67]) := by decide
theorem witness_ReservedEncodings_reservedBits :
    (offered 0xff_0000000000000000_0000000000000001 (inPhase .done)).phase ≠ .fault ∧
      reservedField (controlByte 0xff_0000000000000000_0000000000000001) ≠ 0 := by decide
theorem witness_ReservedEncodings_count :
    (offered 0x1c_0000000000000000_0000000000000000 (inPhase .idle)).phase ≠ .fault ∧
      opField (controlByte 0x1c_0000000000000000_0000000000000000) ≠ 2 ∧
      countField (controlByte 0x1c_0000000000000000_0000000000000000) ≠ 0 := by decide
theorem witness_IgnoredData_block :
    controlByte 0x01_0000000000000000_0000000000000005 = controlByte 0x01_ffffffffffffffff_0000000000000005 ∧
      controlByte 0x01_0000000000000000_0000000000000005 = 0x01 ∧
      lowWord (dataField 0x01_0000000000000000_0000000000000005) =
        lowWord (dataField 0x01_ffffffffffffffff_0000000000000005) := by decide
theorem witness_IgnoredData_last :
    controlByte 0x1e_0000000000000000_00ffffffffffffff = controlByte 0x1e_ffffffffffffffff_ffffffffffffffff ∧
      controlByte 0x1e_0000000000000000_00ffffffffffffff &&& 0xE3 = 0x02 ∧
      ∀ j < (countField (controlByte 0x1e_0000000000000000_00ffffffffffffff)).toNat,
        byteLane (dataField 0x1e_0000000000000000_00ffffffffffffff) j =
          byteLane (dataField 0x1e_ffffffffffffffff_ffffffffffffffff) j := by decide
theorem witness_IgnoredData_fin :
    controlByte 0x03_0000000000000000_0000000000000000 = controlByte 0x03_ffffffffffffffff_ffffffffffffffff ∧
      controlByte 0x03_0000000000000000_0000000000000000 = 0x03 := by decide
theorem witness_IgnoredData_init :
    controlByte 0x00_8000000000000000_0000000000000001 = 0x00 ∧
      decode 0x00_8000000000000000_0000000000000001 = decode 0x00_8000000000000000_0000000000000001 := by decide
theorem witness_OperandsTaken_init : (0x00_ffffffffffffffff_ffffffffffffffff : CommandWord).extractLsb' 128 8 = 0x00 := by decide
theorem witness_OperandsTaken_block : (0x01_0000000000000000_ffffffffffffffff : CommandWord).extractLsb' 128 8 = 0x01 := by decide
theorem witness_OperandsTaken_last :
    (0x1e_0000000000000000_00ffffffffffffff : CommandWord).extractLsb' 133 3 = 0 ∧
      (0x1e_0000000000000000_00ffffffffffffff : CommandWord).extractLsb' 128 2 = 2 := by decide
theorem witness_OperandsTaken_fin : (0x03_0000000000000000_0000000000000000 : CommandWord).extractLsb' 128 8 = 0x03 := by decide
theorem witness_StepRunsDecodedCommand :
    (offered (encode (.block 7)) (inPhase .absorb)).phase ≠ .fault ∧
      (offered (encode (.block 7)) (inPhase .absorb)).host =
        [{ rst := false, cmdValid := true, cmd := encode (.block 7) }] ∧
      decode (encode (.block 7)) = .command (.block 7) := by decide
theorem witness_PlacedWordRunsNext :
    State.reset.phase ≠ .fault ∧ decodeTableWord 8 0x02 = some (.last []) := by decide
theorem witness_OrderOfChecks_fault :
    (offered (encode .fin) (inPhase .fault)).host = [PortSample.offer (encode .fin)] ∧
      (offered (encode .fin) (inPhase .fault)).phase = .fault := by decide
theorem witness_OrderOfChecks_illegal :
    (offered 0x07_0000000000000000_0000000000000000 (inPhase .idle)).phase ≠ .fault ∧
      decode 0x07_0000000000000000_0000000000000000 = .illegal .countWithoutLast := by decide
theorem witness_OrderOfChecks_sequence :
    (offered (encode .fin) (inPhase .absorb)).phase ≠ .fault ∧ decode (encode .fin) = .command .fin ∧
      (offered (encode .fin) (inPhase .absorb)).phase ≠ .padded := by decide
theorem witness_OrderOfChecks_execute :
    (offered (encode .fin) (inPhase .padded)).phase ≠ .fault ∧ decode (encode .fin) = .command .fin ∧
      (offered (encode .fin) (inPhase .padded)).phase = .padded := by decide
theorem witness_IdleEngineHoldsState_empty : (inPhase .absorb).host = [] := by decide
theorem witness_IdleEngineHoldsState_sample :
    ({ inPhase .done with host := [{ rst := false, cmdValid := false, cmd := encode .fin }] } : State).host =
      { rst := false, cmdValid := false, cmd := encode .fin } :: [] := by decide
theorem witness_LaterSamplesHaveNoEffect :
    (goesOn (step { inPhase .padded with host := [PortSample.offer (encode .fin)] })).isSome = true := by decide
theorem witness_PhaseTable : (Instr.last [0, 0, 0, 0, 0, 0, 0]).wf = true := by decide
theorem witness_SequenceFaultCases_block : (inPhase .idle).phase = .idle ∧ (inPhase .padded).phase = .padded := by decide
theorem witness_SequenceFaultCases_last :
    (inPhase .done).phase = .done ∧ ([1, 2, 3, 4, 5, 6, 7] : List Byte).length ≤ 7 := by decide
theorem witness_SequenceFaultCases_fin : (inPhase .absorb).phase = .absorb := by decide
theorem witness_SequenceFaultCases_init : (goesOn (exec (.init 1 2) (inPhase .padded))).isSome = true := by decide
theorem witness_FaultEntryWritesThreeItems :
    (offered (encode .fin) (inPhase .done)).phase ≠ .fault ∧
      (goesOn (step (offered (encode .fin) (inPhase .done)))).map (·.phase) = some .fault := by decide
theorem witness_FaultDropsEveryCommand :
    (offered (encode (.init 1 2)) (inPhase .fault)).phase = .fault ∧ (Instr.init 1 2).wf = true := by decide
theorem witness_OnlyResetLeavesFault :
    ({ inPhase .fault with host := [PortSample.reset] } : State).phase = .fault ∧
      (goesOn (step { inPhase .fault with host := [PortSample.reset] })).map (·.phase) = some .idle := by decide
theorem witness_ResetEvent_taken :
    ({ inPhase .done with host := [{ rst := true, cmdValid := true, cmd := encode .fin }] } : State).host =
      { rst := true, cmdValid := true, cmd := encode .fin } :: [] := by decide
theorem witness_ResetEvent_offers :
    (goesOn (step { inPhase .padded with host := [{ rst := true, cmdValid := true, cmd := encode .fin }] })).isSome = true ∧
      (goesOn (step { inPhase .padded with host := [{ rst := true, cmdValid := false, cmd := 0 }] })).isSome = true := by decide
theorem witness_ResetEvent_neither :
    (goesOn (step (inPhase .done))).isSome = true ∧ (inPhase .done).host = [] := by decide
theorem witness_ResetEvent_faultStays :
    (inPhase .fault).phase = .fault ∧ (inPhase .fault).host = [] ∧ (goesOn (step (inPhase .fault))).isSome = true := by decide
theorem witness_InitLoads_executes : (inPhase .padded).phase ≠ .fault := by decide
theorem witness_InitLoads_dropped : (inPhase .fault).phase = .fault := by decide
theorem witness_InitLoads_word : decode 0x00_0000000000000002_0000000000000001 = .command (.init 1 2) := by decide
theorem witness_WidthMattersOnlyInFin :
    Instr.block 5 ≠ .fin ∧ (inPhase .absorb).v = (inPhaseWide .absorb).v ∧ (inPhase .absorb).len = (inPhaseWide .absorb).len ∧
      (inPhase .absorb).phase = (inPhaseWide .absorb).phase ∧ (inPhase .absorb).params.c = (inPhaseWide .absorb).params.c ∧
      (goesOn (exec (.block 5) (inPhase .absorb))).isSome = true ∧
      (goesOn (exec (.block 5) (inPhaseWide .absorb))).isSome = true := by decide
theorem witness_InitPatternOfStateWords :
    initWords 1 2 = initWords 1 2 ∧ (inPhase .idle).phase ≠ .fault ∧ (goesOn (exec (.init 1 2) (inPhase .idle))).isSome = true := by
  decide
theorem witness_RotationMovesEveryBit : 0 < 63 ∧ 63 < 64 := by decide
theorem witness_BlockAbsorbs_executes : (inPhase .absorb).phase = .absorb := by decide
theorem witness_BlockAbsorbs_faults : (inPhase .done).phase = .done := by decide
theorem witness_BlockAbsorbs_dropped : (inPhase .fault).phase = .fault := by decide
theorem witness_BlockAbsorbs_word : decode 0x01_0000000000000000_0000000000000007 = .command (.block 7) := by decide
theorem witness_LastAbsorbs_executes :
    ([1, 2, 3, 4, 5, 6, 7] : List Byte).length ≤ 7 ∧ (inPhase .absorb).phase = .absorb := by decide
theorem witness_LastAbsorbs_faults : ([] : List Byte).length ≤ 7 ∧ (inPhase .padded).phase = .padded := by decide
theorem witness_LastAbsorbs_dropped : ([] : List Byte).length ≤ 7 ∧ (inPhase .fault).phase = .fault := by decide
theorem witness_LastAbsorbs_word : decode 0x02_0000000000000000_0000000000000007 = .command (.last []) := by decide
theorem witness_OverlongLastIsRefused : 7 < ([1, 2, 3, 4, 5, 6, 7, 8] : List Byte).length := by decide
theorem witness_LengthCountsBytes :
    (inPhase .done).phase ≠ .fault ∧
      ({ inPhase .done with host := issue (.init 1 2 :: [3, 4].map Instr.block) } : State).host =
        issue (.init 1 2 :: [3, 4].map Instr.block) ++ [] := by decide
theorem witness_MicroStepsReachAbsorb : 2 ≤ 2 := by decide
theorem witness_FinNarrow_executes : (inPhase .padded).params.width = .w64 ∧ (inPhase .padded).phase = .padded := by decide
theorem witness_FinNarrow_faults : (inPhase .absorb).params.width = .w64 ∧ (inPhase .absorb).phase = .absorb := by decide
theorem witness_FinNarrow_dropped : (inPhase .fault).params.width = .w64 ∧ (inPhase .fault).phase = .fault := by decide
theorem witness_FinWide_executes : (inPhaseWide .padded).params.width = .w128 ∧ (inPhaseWide .padded).phase = .padded := by
  decide
theorem witness_FinWide_faults : (inPhaseWide .idle).params.width = .w128 ∧ (inPhaseWide .idle).phase = .idle := by decide
theorem witness_FinWide_dropped : (inPhaseWide .fault).params.width = .w128 ∧ (inPhaseWide .fault).phase = .fault := by decide
theorem witness_FramesOfCommands_init :
    (goesOn (exec (.init 1 2) (inPhase .done))).map (·.phase) = some .absorb := by decide
theorem witness_FramesOfCommands_block :
    (goesOn (exec (.block 3) (inPhase .absorb))).map (·.phase) = some .absorb := by decide
theorem witness_FramesOfCommands_last :
    (goesOn (exec (.last [9]) (inPhase .absorb))).map (·.phase) = some .padded := by decide
theorem witness_FramesOfCommands_fin : (goesOn (exec .fin (inPhase .padded))).map (·.phase) = some .done := by decide
theorem witness_ParametersNeverChange :
    (goesOn (step { inPhaseWide .done with host := [PortSample.reset] })).isSome = true := by decide
theorem witness_StatusPortLayout :
    (inPhase .done).phase = (inPhaseWide .done).phase ∧ (inPhase .done).dvalid = (inPhaseWide .done).dvalid ∧
      (inPhase .done).err = (inPhaseWide .done).err := by decide
theorem witness_DigestPortShowsDigest : (inPhaseWide .done).Inv ∧ (inPhaseWide .done).dvalid = true := by decide
theorem witness_DigestLifetime_fin :
    (goesOn (exec .fin (inPhase .padded))).isSome = true ∧ (inPhase .padded).phase = .padded := by decide
theorem witness_DigestLifetime_kept :
    (inPhase .done).Inv ∧ (inPhase .done).dvalid = true ∧
      (goesOn (step (inPhase .done))).map (·.dvalid) = some true := by decide
theorem witness_StateWordsDoNotEscape :
    (offered (encode (.block 7)) (inPhase .absorb)).AgreeButWords
        { offered (encode (.block 7)) (inPhase .absorb) with v := initWords 5 6 } ∧
    (goesOn (step (offered (encode (.block 7)) (inPhase .absorb)))).isSome = true ∧
      (goesOn (step { offered (encode (.block 7)) (inPhase .absorb) with v := initWords 5 6 })).isSome = true := by decide
theorem witness_TransactionComputesSipHash :
    (inPhase .padded).phase ≠ .fault ∧
      ({ inPhase .padded with host := issue (transaction 1 2 (stdMessage 9)) } : State).host =
        issue (transaction 1 2 (stdMessage 9)) ++ [] := by decide
theorem witness_StreamHashesMessageItSpells :
    (inPhase .idle).phase ≠ .fault ∧ ([7] : List Byte).length ≤ 7 ∧
      ({ inPhase .idle with host := issue (stream 1 2 [3] [7]) } : State).host = issue (stream 1 2 [3] [7]) ++ [] := by decide
theorem witness_TransactionNeverFaults :
    (inPhase .done).phase ≠ .fault ∧
      ({ inPhase .done with host := issue (transaction 1 2 []) } : State).host = issue (transaction 1 2 []) ++ [] := by decide
theorem witness_DigestIndependentOfHistory :
    (inPhase .absorb).phase ≠ .fault ∧ (inPhase .done).phase ≠ .fault ∧ (inPhase .absorb).params = (inPhase .done).params ∧
      (goesOn (Host.Core.run core 3 { inPhase .absorb with host := issue (transaction 1 2 []) })).isSome = true ∧
      (goesOn (Host.Core.run core 3 { inPhase .done with host := issue (transaction 1 2 []) })).isSome = true := by decide
theorem witness_KeyShapesAgree :
    ∀ j (h : j < 16), (Vector.replicate 16 (0xab : Byte))[j] =
      (0xabababababababababababababababab : BitVec 128).extractLsb' (8 * j) 8 := by decide
theorem witness_ShortKeyIssuesNothing_short : (stdMessage 15).length < 16 := by decide
theorem witness_ShortKeyIssuesNothing_long : 16 ≤ (stdMessage 17).length := by decide
theorem witness_InfallibleKeyShapes :
    normalizeKey (.byteArray (Vector.replicate 16 (0xab : Byte))) = .key 0xabababababababab 0xabababababababab := by decide

theorem witness_FacadeReturns_digest : normalizeKey (.wordPair 1 2) = .key 1 2 ∧ (inPhase .padded).phase ≠ .fault := by decide
theorem witness_FacadeReturns_keyTooShort : normalizeKey (.byteSlice (stdMessage 15)) = .keyTooShort := by decide
theorem witness_FacadeReturns_waiting :
    normalizeKey (.wordPair 1 2) = .key 1 2 ∧ (inPhase .fault).phase = .fault ∧ (inPhase .fault).Inv := by decide

end Sys2Proof.Tests
end

