-- ==== Sys2Proof/Proofs/Scope.lean ====
section
/-! PROOFS. The primitives of spec/00_scope.md: addition (R9), rotation (R10) and the little-endian load (R12). -/

namespace Sys2Proof.Machine

/-! ### Addition (R9) -/

theorem add64_toNat (a b : Word) : (add64 a b).toNat = (a.toNat + b.toNat) % 2 ^ 64 :=
  BitVec.toNat_add a b

/-! ### Rotation (R10) -/

theorem rotl64_toNat (x : Word) (r : Nat) :
    (rotl64 x r).toNat = ((x.toNat <<< r) % 2 ^ 64) ||| (x.toNat >>> (64 - r)) := by
  simp only [rotl64, BitVec.toNat_or, BitVec.toNat_shiftLeft, BitVec.toNat_ushiftRight]

/-- Read from the result: below `r` stand the bits that left at the top, from `r` on those that moved up by `r`. -/
theorem rotl64_getLsbD (x : Word) {r : Nat} (hr : r < 64) (j : Nat) :
    (rotl64 x r).getLsbD j =
      if j < r then x.getLsbD (64 - r + j) else decide (j < 64) && x.getLsbD (j - r) := by
  rw [rotl64_eq_rotateLeft x hr, BitVec.getLsbD_rotateLeft, Nat.mod_eq_of_lt hr, Bool.cond_decide]

/-- Read from the operand: its bit `i` moves up by `r`, or wraps round at bit 64. -/
theorem rotl64_getLsbD_add_mod (x : Word) {r i : Nat} (hr : r < 64) (hi : i < 64) :
    (rotl64 x r).getLsbD ((i + r) % 64) = x.getLsbD i := by
  rw [rotl64_getLsbD x hr]
  by_cases hwrap : i + r < 64
  · rw [Nat.mod_eq_of_lt hwrap, if_neg (by omega), Nat.add_sub_cancel]
    simp only [hwrap, decide_true, Bool.true_and]
  · have hmod : (i + r) % 64 = i + r - 64 := by omega
    rw [hmod, if_pos (by omega)]
    congr 1
    omega

/-! ### The little-endian load (R12) -/

/-- Eight bytes fill the word and lose nothing. -/
theorem le64_toNat {bytes : List Byte} (h : bytes.length ≤ 8) : (le64 bytes).toNat = littleEndian bytes := by
  have hlt : littleEndian bytes < 2 ^ 64 :=
    lt_of_lt_of_le (littleEndian_lt bytes) (Nat.pow_le_pow_right (by norm_num) (by omega))
  rw [le64, BitVec.toNat_ofNat, Nat.mod_eq_of_lt hlt]

@[simp] theorem wordBytes_length (m : Word) : (wordBytes m).length = 8 := by
  simp [wordBytes]

@[simp] theorem wordBytes_getElem (m : Word) (j : Nat) (h : j < (wordBytes m).length) :
    (wordBytes m)[j] = m.extractLsb' (8 * j) 8 := by
  simp [wordBytes]

/-- Taking a word apart undoes the load. -/
theorem wordBytes_le64 {bytes : List Byte} (h : bytes.length = 8) : wordBytes (le64 bytes) = bytes := by
  apply List.ext_getElem
  · rw [wordBytes_length, h]
  · intro j _ hj
    rw [wordBytes_getElem]
    exact lane_littleEndian bytes 64 j hj (by omega)

end Sys2Proof.Machine

namespace Sys2Proof.Proofs
open Sys2Proof.Machine

/-- Settles O26: `add64` is the addition of 64-bit words. -/
theorem additionWraps : Obligations.AdditionWraps := add64_toNat

/-- Settles O27: the formula by the value of each shift, the bit law by whether the bit wraps round at 64. -/
theorem rotationMovesEveryBit : Obligations.RotationMovesEveryBit := fun x r _ hr =>
  ⟨rotl64_toNat x r, fun _ hi => rotl64_getLsbD_add_mod x hr hi⟩

/-- Settles O28: eight bytes fit the word, so its value is their sum and its lanes are the bytes. -/
theorem littleEndianLoad : Obligations.LittleEndianLoad := by
  intro b0 b1 b2 b3 b4 b5 b6 b7
  refine ⟨?_, wordBytes_le64 rfl⟩
  rw [le64_toNat (by simp)]
  simp only [littleEndian]
  omega

end Sys2Proof.Proofs
end

