-- ==== Sys2Proof/Proofs/State.lean ====
section
/-! PROOFS. The state of spec/10_state.md: the phase table (R25) and the status port (R28). -/

namespace Sys2Proof.Machine

/-! ### The phase table (R25) -/

/-- A "go X" entry: the command goes on and leaves PHASE = X. -/
theorem exec_of_go {i : Instr} {s : State} {p next : Phase} (hwf : i.wf = true) (hp : s.phase = p)
    (hgo : phaseTable p (commandOf i) = .go next) : ∃ t : State, exec i s = .next t ∧ t.phase = next := by
  subst hp
  rw [exec_of_wf hwf, sequenced_go _ hgo]
  exact ⟨{ effectOf i s with phase := next }, rfl, rfl⟩

/-- A "SEQ" entry: the command goes on by fault entry with SequenceFault. -/
theorem exec_of_seq {i : Instr} {s : State} {p : Phase} (hwf : i.wf = true) (hp : s.phase = p)
    (hseq : phaseTable p (commandOf i) = .seq) :
    ∃ t : State, exec i s = .next t ∧ State.FaultEntry .sequenceFault s t := by
  subst hp
  rw [exec_of_wf hwf, sequenced_seq _ hseq]
  exact ⟨_, rfl, takeFault_faultEntry .sequenceFault s⟩

/-! ### The status port (R28)

DVALID's bit is `statusPort_dvalid`, of Laws/Ops.lean. -/

@[simp] theorem statusPort_phase (s : State) : s.statusPort.extractLsb' 0 3 = s.phase.code :=
  BitVec.extractLsb'_append_eq_right

@[simp] theorem statusPort_err (s : State) : s.statusPort.extractLsb' 4 2 = s.err.code :=
  (BitVec.extractLsb'_append_eq_of_le (by decide)).trans BitVec.extractLsb'_append_eq_left

/-- `status` is a function of PHASE, DVALID and ERRCODE. -/
theorem statusPort_congr {s s' : State} (hphase : s.phase = s'.phase) (hdvalid : s.dvalid = s'.dvalid)
    (herr : s.err = s'.err) : s.statusPort = s'.statusPort := by
  simp only [State.statusPort, hphase, hdvalid, herr]

end Sys2Proof.Machine

namespace Sys2Proof.Proofs
open Sys2Proof.Machine

/-- Settles O17, by the phase and the command: each of the table's twenty entries is a "go", a "SEQ" or a "drop". -/
theorem phaseTable : Obligations.PhaseTable := by
  intro i s hwf
  cases hp : s.phase with
  | idle =>
    cases i with
    | init => exact exec_of_go hwf hp rfl
    | block | last | fin => exact exec_of_seq hwf hp rfl
  | absorb =>
    cases i with
    | init | block | last => exact exec_of_go hwf hp rfl
    | fin => exact exec_of_seq hwf hp rfl
  | padded =>
    cases i with
    | init | fin => exact exec_of_go hwf hp rfl
    | block | last => exact exec_of_seq hwf hp rfl
  | done =>
    cases i with
    | init => exact exec_of_go hwf hp rfl
    | block | last | fin => exact exec_of_seq hwf hp rfl
  | fault => exact ⟨s, exec_in_fault hwf hp, rfl⟩

/-- Settles O41: each field of the port reads back the code that `statusBits` put there. -/
theorem statusPortLayout : Obligations.StatusPortLayout := by
  refine ⟨fun s => ⟨?_, statusPort_dvalid s, ?_⟩, fun _ _ => statusPort_congr⟩
  · rw [statusPort_phase]
    cases s.phase <;> rfl
  · rw [statusPort_err]
    cases s.err <;> rfl

end Sys2Proof.Proofs
end

