-- ==== Sys2Proof/Proofs/Memory.lean ====
section
/-! PROOFS. The operand lanes of spec/20_memory.md: which data bits a command reads (R43, R46). -/

namespace Sys2Proof

/-! ### The operands each command reads (R43) -/

/-- LAST's match pattern, the mask 0xE3 with the value 0x02, fixes the two fields the decoder tests. -/
theorem fields_of_lastPattern {ctl : Byte} (h : ctl &&& 0xE3 = 0x02) : reservedField ctl = 0 ∧ opField ctl = 2 := by
  revert ctl
  decide

/-- A LAST operand is read from its first `n` lanes alone. -/
theorem remainingBytes_congr {data data' : DataField} {n : Nat} (h : ∀ j < n, byteLane data j = byteLane data' j) :
    remainingBytes data n = remainingBytes data' n :=
  List.map_congr_left fun j hj => h j (List.mem_range.mp hj)

/-- INIT's two words are the whole data field. -/
@[simp] theorem highWord_append_lowWord (data : DataField) : highWord data ++ lowWord data = data :=
  (BitVec.extractLsb'_append_extractLsb'_eq_extractLsb' rfl).trans BitVec.extractLsb'_eq_self

/-! ### Words with one control byte (R46) -/

section
variable {cw cw' : CommandWord} (hctl : controlByte cw = controlByte cw')
include hctl

theorem decode_block_congr (h : controlByte cw = 0x01) (hlow : lowWord (dataField cw) = lowWord (dataField cw')) :
    decode cw = decode cw' := by
  rw [decode_of_block h, decode_of_block (hctl ▸ h), hlow]

theorem decode_last_congr (h : controlByte cw &&& 0xE3 = 0x02)
    (hlanes : ∀ j < (countField (controlByte cw)).toNat, byteLane (dataField cw) j = byteLane (dataField cw') j) :
    decode cw = decode cw' := by
  obtain ⟨hres, hop⟩ := fields_of_lastPattern h
  rw [decode_of_last hres hop, decode_of_last (hctl ▸ hres) (hctl ▸ hop), remainingBytes_congr hlanes, hctl]

theorem decode_fin_congr (h : controlByte cw = 0x03) : decode cw = decode cw' := by
  rw [decode_of_fin h, decode_of_fin (hctl ▸ h)]

theorem dataField_eq_of_decode_init (h : controlByte cw = 0x00) (hdec : decode cw = decode cw') :
    dataField cw = dataField cw' := by
  rw [decode_of_init h, decode_of_init (hctl ▸ h)] at hdec
  injection hdec with hinstr
  injection hinstr with hlow hhigh
  rw [← highWord_append_lowWord (dataField cw), hlow, hhigh, highWord_append_lowWord]

end

end Sys2Proof

namespace Sys2Proof.Proofs

/-- Settles O8: one clause for each command, by the operands it reads. -/
theorem ignoredDataHasNoEffect : Obligations.IgnoredDataHasNoEffect := fun _ _ hctl =>
  ⟨decode_block_congr hctl, decode_last_congr hctl, decode_fin_congr hctl, dataField_eq_of_decode_init hctl⟩

end Sys2Proof.Proofs
end

