-- ==== Sys2Proof/Proofs/Encoding.lean ====
section
/-! PROOFS. The encoding of spec/30_encoding.md: the legal control bytes (R66), the reserved ones (R67) and the operands
of a command word (R65). -/

namespace Sys2Proof

/-! ### The control byte (R66) -/

/-- Every well-formed command's canonical control byte is legal: Laws/PerInstr.lean, over the commands. -/
theorem legalControl (i : Instr) : Laws.LegalControl.Statement i := by
  cases i with
  | init k0 k1 => exact Laws.LegalControl.init k0 k1
  | block m => exact Laws.LegalControl.block m
  | last remaining => exact Laws.LegalControl.last remaining
  | fin => exact Laws.LegalControl.fin

/-- LAST's pattern leaves the count alone free, and the count field is what the control byte adds to 2. -/
theorem eq_of_lastPattern {ctl : Byte} (h : ctl &&& 0xE3 = 0x02) :
    ctl = 0x02 + 4 * BitVec.ofNat 8 (countField ctl).toNat := by
  revert ctl
  decide

/-- The pattern holds of every LAST a control byte can spell. -/
theorem encodeControl_last_pattern {remaining : List Byte} (h : (Instr.last remaining).wf = true) :
    encodeControl (.last remaining) &&& 0xE3 = 0x02 := by
  have hlen : remaining.length ≤ 7 := by simpa [Instr.wf, countFits] using h
  have pattern : ∀ n ≤ 7, (0x02 + 4 * BitVec.ofNat 8 n : Byte) &&& 0xE3 = 0x02 := by decide
  exact pattern _ hlen

/-- The control byte is kept whole by decoding: what a command ignores is data (R64). -/
theorem controlByte_of_decode {cw : CommandWord} {i : Instr} (h : decode cw = .command i) :
    controlByte cw = encodeControl i := by
  rcases decode_cases cw with ⟨_, hd⟩ | ⟨hctl, hd⟩ | ⟨_, _, _, hd⟩ | ⟨hctl, hd⟩ | ⟨hctl, hd⟩ | ⟨hctl, hd⟩ <;>
    cases hd.symm.trans h
  · rw [encodeControl, remainingBytes_length]
    exact eq_of_lastPattern hctl
  all_goals exact hctl

theorem exists_decode_iff_fields (cw : CommandWord) :
    (∃ i, decode cw = .command i) ↔
      reservedField (controlByte cw) = 0 ∧ (opField (controlByte cw) = 2 ∨ countField (controlByte cw) = 0) := by
  constructor
  · rintro ⟨i, h⟩
    rw [controlByte_of_decode h]
    exact legalControl i (wf_of_decode h)
  · rintro ⟨hres, hlegal⟩
    rcases decode_cases cw with ⟨hres', _⟩ | ⟨_, hd⟩ | ⟨_, hop, hn, _⟩ | ⟨_, hd⟩ | ⟨_, hd⟩ | ⟨_, hd⟩
    · exact absurd hres hres'
    · exact ⟨_, hd⟩
    · exact absurd hlegal (not_or.mpr ⟨hop, hn⟩)
    all_goals exact ⟨_, hd⟩

/-- The legal control bytes, counted out: the eleven rows of the opcode map. -/
theorem legalFields_iff_mem (ctl : Byte) :
    (reservedField ctl = 0 ∧ (opField ctl = 2 ∨ countField ctl = 0)) ↔
      ctl ∈ ([0x00, 0x01, 0x02, 0x06, 0x0A, 0x0E, 0x12, 0x16, 0x1A, 0x1E, 0x03] : List Byte) := by
  revert ctl
  decide

theorem exists_decode_init_iff (cw : CommandWord) :
    (∃ k0 k1, decode cw = .command (.init k0 k1)) ↔ controlByte cw = 0x00 :=
  ⟨fun ⟨_, _, h⟩ => controlByte_of_decode h, fun h => ⟨_, _, decode_of_init h⟩⟩

theorem exists_decode_block_iff (cw : CommandWord) :
    (∃ m, decode cw = .command (.block m)) ↔ controlByte cw = 0x01 :=
  ⟨fun ⟨_, h⟩ => controlByte_of_decode h, fun h => ⟨_, decode_of_block h⟩⟩

theorem exists_decode_last_iff (cw : CommandWord) :
    (∃ remaining, decode cw = .command (.last remaining)) ↔ controlByte cw &&& 0xE3 = 0x02 := by
  constructor
  · rintro ⟨remaining, h⟩
    rw [controlByte_of_decode h]
    exact encodeControl_last_pattern (wf_of_decode h)
  · intro h
    obtain ⟨hres, hop⟩ := fields_of_lastPattern h
    exact ⟨_, decode_of_last hres hop⟩

theorem decode_fin_iff (cw : CommandWord) : decode cw = .command .fin ↔ controlByte cw = 0x03 :=
  ⟨controlByte_of_decode, decode_of_fin⟩

/-! ### The reserved control bytes (R67) -/

theorem exists_illegal_of_fields {cw : CommandWord}
    (h : reservedField (controlByte cw) ≠ 0 ∨ (opField (controlByte cw) ≠ 2 ∧ countField (controlByte cw) ≠ 0)) :
    ∃ why, decode cw = .illegal why := by
  by_cases hres : reservedField (controlByte cw) = 0
  · obtain ⟨hop, hn⟩ := h.resolve_left (not_not_intro hres)
    exact ⟨_, decode_of_count hres hop hn⟩
  · exact ⟨_, decode_of_reserved hres⟩

theorem length_filter_reservedBits :
    ((List.range 256).filter fun x => reservedField (BitVec.ofNat 8 x) ≠ 0).length = 224 := by
  rfl

theorem length_filter_countWithoutLast :
    ((List.range 256).filter fun x =>
      reservedField (BitVec.ofNat 8 x) = 0 ∧ opField (BitVec.ofNat 8 x) ≠ 2 ∧
        countField (BitVec.ofNat 8 x) ≠ 0).length = 21 := by
  rfl

/-! ### The fields of a command word (R65) -/

/-- A field of a field is a field of the whole. -/
theorem extractLsb'_extractLsb' {w : Nat} (x : BitVec w) (start len start' len' : Nat) (h : start' + len' ≤ len) :
    (x.extractLsb' start len).extractLsb' start' len' = x.extractLsb' (start + start') len' := by
  ext j hj
  have hlt : start' + j < len := by omega
  simp only [BitVec.getElem_extractLsb', BitVec.getLsbD_extractLsb', Nat.add_assoc, hlt, decide_true, Bool.true_and]

theorem opField_controlByte (cw : CommandWord) : opField (controlByte cw) = cw.extractLsb' 128 2 :=
  extractLsb'_extractLsb' cw 128 8 0 2 (by decide)

theorem countField_controlByte (cw : CommandWord) : countField (controlByte cw) = cw.extractLsb' 130 3 :=
  extractLsb'_extractLsb' cw 128 8 2 3 (by decide)

theorem reservedField_controlByte (cw : CommandWord) : reservedField (controlByte cw) = cw.extractLsb' 133 3 :=
  extractLsb'_extractLsb' cw 128 8 5 3 (by decide)

theorem lowWord_dataField (cw : CommandWord) : lowWord (dataField cw) = cw.extractLsb' 0 64 :=
  extractLsb'_extractLsb' cw 0 128 0 64 (by decide)

theorem highWord_dataField (cw : CommandWord) : highWord (dataField cw) = cw.extractLsb' 64 64 :=
  extractLsb'_extractLsb' cw 0 128 64 64 (by decide)

theorem byteLane_dataField (cw : CommandWord) {j : Nat} (h : j < 16) :
    byteLane (dataField cw) j = cw.extractLsb' (8 * j) 8 :=
  BitVec.extractLsb'_extractLsb'_of_le (by omega)

@[simp] theorem remainingBytes_getElem (data : DataField) (n j : Nat) (h : j < (remainingBytes data n).length) :
    (remainingBytes data n)[j] = byteLane data j := by
  simp [remainingBytes]

/-- LAST's bytes, read off the command word. -/
theorem exists_decode_last {cw : CommandWord} (hres : cw.extractLsb' 133 3 = 0) (hop : cw.extractLsb' 128 2 = 2) :
    ∃ remaining : List Byte, decode cw = .command (.last remaining) ∧
      remaining.length = (cw.extractLsb' 130 3).toNat ∧
      ∀ j (h : j < remaining.length), remaining[j] = cw.extractLsb' (8 * j) 8 := by
  rw [← reservedField_controlByte] at hres
  rw [← opField_controlByte] at hop
  refine ⟨_, decode_of_last hres hop, ?_, fun j hj => ?_⟩
  · rw [remainingBytes_length, countField_controlByte]
  · have hn := (countField (controlByte cw)).isLt
    rw [remainingBytes_length] at hj
    rw [remainingBytes_getElem, byteLane_dataField cw (by omega)]

end Sys2Proof

namespace Sys2Proof.Machine

/-! ### An illegal command accepted (R140, R143) -/

theorem takeSample_of_host {s : State} {p : PortSample} {rest : List PortSample} (h : s.host = p :: rest) :
    s.takeSample = { s with host := rest, draws := s.draws + 1 } := by
  simp only [State.takeSample, h, List.tail_cons]

/-- Outside FAULT the check of the encoding is the first one (R144). -/
theorem accept_of_illegal {cw : CommandWord} {s : State} {why : IllegalWhy} (hp : s.phase ≠ .fault)
    (h : decode cw = .illegal why) : accept cw s = .next (takeFault .illegalCommand s) := by
  simp only [accept, if_neg hp, h]

theorem step_of_illegal {s : State} {cw : CommandWord} {rest : List PortSample} {why : IllegalWhy}
    (hp : s.phase ≠ .fault) (hh : s.host = PortSample.offer cw :: rest) (h : decode cw = .illegal why) :
    step s = .next (takeFault .illegalCommand { s with host := rest, draws := s.draws + 1 }) := by
  rw [step_offer hh, ← takeSample_of_host hh]
  exact accept_of_illegal hp h

end Sys2Proof.Machine

namespace Sys2Proof.Proofs
open Sys2Proof.Machine

/-- Settles O6: a legal word bears the control byte of a command, and each command's byte is told by its mask, the mask
0xFF being no mask at all. -/
theorem legalControlBytes : Obligations.LegalControlBytes := by
  intro cw
  have unmasked : controlByte cw &&& 0xFF = controlByte cw := BitVec.and_allOnes
  rw [unmasked]
  exact ⟨exists_decode_iff_fields cw, (exists_decode_iff_fields cw).trans (legalFields_iff_mem _),
    exists_decode_init_iff cw, exists_decode_block_iff cw, exists_decode_last_iff cw, decode_fin_iff cw⟩

/-- Settles O7: the two counts over the 256 control bytes, and fault entry by the decoder's answer. -/
theorem reservedEncodingsRaiseIllegalCommand : Obligations.ReservedEncodingsRaiseIllegalCommand := by
  refine ⟨length_filter_reservedBits, length_filter_countWithoutLast, fun s cw rest hp hh hfields => ?_⟩
  obtain ⟨why, hd⟩ := exists_illegal_of_fields hfields
  exact ⟨_, step_of_illegal hp hh hd, takeFault_faultEntry .illegalCommand _⟩

/-- Settles O9: one clause for each command, each operand a field of the word. -/
theorem operandsTakenFromCommandWord : Obligations.OperandsTakenFromCommandWord := by
  intro cw
  rw [← lowWord_dataField, ← highWord_dataField]
  exact ⟨decode_of_init, decode_of_block, exists_decode_last, decode_of_fin⟩

end Sys2Proof.Proofs
end

