-- ==== Sys2Proof/Proofs/KeyAndInit.lean ====
section
/-! PROOFS. INIT of spec/40_key_and_init.md (R82), and the width, which matters to FIN alone (R83). -/

namespace Sys2Proof.Machine

/-! ### INIT (R82) -/

/-- INIT's row of the table: it goes to ABSORB from every phase it is not dropped in (R25). -/
theorem phaseTable_init {p : Phase} (h : p ≠ .fault) : phaseTable p .init = .go .absorb := by
  cases p with
  | fault => exact absurd rfl h
  | idle | absorb | padded | done => rfl

theorem exec_init (k0 k1 : Word) {s : State} (h : s.phase ≠ .fault) :
    exec (.init k0 k1) s = .next { initEffect k0 k1 s with phase := .absorb } := by
  rw [exec_of_wf rfl]
  exact congrArg _ (sequenced_go _ (phaseTable_init h))

/-! ### The effects of BLOCK and LAST (R101, R102) -/

@[simp] theorem blockEffect_v (m : Word) (s : State) : (blockEffect m s).v = absorb s.params.c s.v m := rfl
@[simp] theorem blockEffect_len (m : Word) (s : State) : (blockEffect m s).len = s.len + 8 := rfl
@[simp] theorem lastEffect_v (remaining : List Byte) (s : State) :
    (lastEffect remaining s).v = absorb s.params.c s.v (lastWord s.len remaining) := rfl
@[simp] theorem lastEffect_len (remaining : List Byte) (s : State) : (lastEffect remaining s).len = s.len := rfl

/-! ### What a command reads of the state (R83) -/

/-- No effect but FIN's reads more of the state than v0..v3, LEN and `C` to write v0..v3 and LEN. -/
theorem effectOf_congr {i : Instr} {s s' : State} (hi : i ≠ .fin) (hv : s.v = s'.v) (hlen : s.len = s'.len)
    (hc : s.params.c = s'.params.c) :
    (effectOf i s).v = (effectOf i s').v ∧ (effectOf i s).len = (effectOf i s').len := by
  cases i with
  | init k0 k1 => exact ⟨rfl, rfl⟩
  | block m => simp only [effectOf, blockEffect_v, blockEffect_len, hv, hlen, hc, and_self]
  | last remaining => simp only [effectOf, lastEffect_v, lastEffect_len, hv, hlen, hc, and_self]
  | fin => exact absurd rfl hi

/-- The phase table reads PHASE alone, so from one phase a command takes the same entry; outside FAULT v0..v3 and LEN are
then what its effect wrote. -/
theorem sequenced_congr {c : Command} {effect : State → State} {s s' : State} (hp : s.phase = s'.phase)
    (heffect : (effect s).v = (effect s').v ∧ (effect s).len = (effect s').len) :
    (sequenced c effect s).phase = (sequenced c effect s').phase ∧
      ((sequenced c effect s).phase ≠ .fault →
        (sequenced c effect s).v = (sequenced c effect s').v ∧
          (sequenced c effect s).len = (sequenced c effect s').len) := by
  rcases sequenced_cases c effect s with ⟨next, hentry, hs⟩ | ⟨hentry, hs⟩ | ⟨hentry, hs⟩
  · rw [hs, sequenced_go effect (hp ▸ hentry)]
    exact ⟨rfl, fun _ => heffect⟩
  · rw [hs, sequenced_seq effect (hp ▸ hentry)]
    exact ⟨rfl, fun hlive => absurd rfl hlive⟩
  · rw [hs, sequenced_drop effect (hp ▸ hentry)]
    exact ⟨hp, fun hlive => absurd ((phaseTable_drop_iff _ _).mp hentry) hlive⟩

end Sys2Proof.Machine

namespace Sys2Proof.Proofs
open Sys2Proof.Machine

/-- Settles O24: both states take the same entry of the phase table, and the command's effect reads nothing else of them. -/
theorem widthMattersOnlyInFin : Obligations.WidthMattersOnlyInFin := by
  intro i s s' t t' hi hv hlen hp hc ht ht'
  obtain ⟨_, rfl⟩ := exec_next_iff.mp ht
  obtain ⟨_, rfl⟩ := exec_next_iff.mp ht'
  exact sequenced_congr hp (effectOf_congr hi hv hlen hc)

/-- Settles O23: INIT's row of the phase table, its effect with whatever DIGEST it leaves, and its control byte. -/
theorem initLoadsKeyAndConstants : Obligations.InitLoadsKeyAndConstants := fun k0 k1 _ =>
  ⟨fun hp => ⟨_, exec_init k0 k1 hp⟩, exec_in_fault rfl, fun _ => controlByte_of_decode⟩

end Sys2Proof.Proofs
end

