-- ==== Sys2Proof/Proofs/Compression.lean ====
section
/-! PROOFS. The compression of spec/42_compression.md: Absorb (R100), BLOCK (R101) and LAST with its padded block (R102). -/

namespace Sys2Proof

/-! ### LAST as a command term (R63) -/

theorem wf_last_iff (remaining : List Byte) : (Instr.last remaining).wf = true ↔ remaining.length ≤ 7 :=
  decide_eq_true_iff

/-- The count stands in the control byte without overflow, since it is at most 7. -/
theorem encodeControl_last_toNat {remaining : List Byte} (h : remaining.length ≤ 7) :
    (encodeControl (.last remaining)).toNat = 0x02 + 4 * remaining.length := by
  simp only [encodeControl, BitVec.toNat_add, BitVec.toNat_mul, BitVec.toNat_ofNat, BitVec.reduceToNat]
  omega

/-! ### Byte lists as numbers (R12) -/

/-- The recursion of `littleEndian` is the sum of the bytes, each at its own power of 2^8. -/
theorem littleEndian_eq_sum (bytes : List Byte) :
    littleEndian bytes = ∑ j : Fin bytes.length, 2 ^ (8 * (j : Nat)) * (bytes.get j).toNat := by
  induction bytes with
  | nil => rfl
  | cons b bs ih =>
    have moved (j x : Nat) : 2 ^ (8 * (j + 1)) * x = 256 * (2 ^ (8 * j) * x) := by ring
    rw [littleEndian, ih, Finset.mul_sum]
    simp [Fin.sum_univ_succ, moved]

end Sys2Proof

namespace Sys2Proof.Machine

/-! ### The padded block (R102) -/

theorem lengthByte_toNat (len : Byte) (remaining : List Byte) :
    (lengthByte len remaining).toNat = (len.toNat + remaining.length) % 256 := by
  simp only [lengthByte, BitVec.toNat_add, BitVec.toNat_ofNat]
  omega

/-- The zero fill puts the length byte at byte 7, whatever the count. -/
theorem littleEndian_paddedBuffer (len : Byte) {remaining : List Byte} (h : remaining.length ≤ 7) :
    littleEndian (paddedBuffer len remaining) =
      littleEndian remaining + 2 ^ 56 * (lengthByte len remaining).toNat := by
  have filled : 8 * (remaining ++ List.replicate (7 - remaining.length) (0 : Byte)).length = 56 := by
    rw [List.length_append, List.length_replicate]
    omega
  rw [paddedBuffer, littleEndian_append, filled, littleEndian_append]
  simp [littleEndian]

theorem lastWord_toNat (len : Byte) {remaining : List Byte} (h : remaining.length ≤ 7) :
    (lastWord len remaining).toNat =
      (∑ j : Fin remaining.length, 2 ^ (8 * (j : Nat)) * (remaining.get j).toNat) +
        2 ^ 56 * ((len.toNat + remaining.length) % 256) := by
  rw [lastWord, le64_toNat (paddedBuffer_length h).le, littleEndian_paddedBuffer len h, littleEndian_eq_sum,
    lengthByte_toNat]

/-! ### Absorb (R100) -/

theorem absorb_eq_iterate (c : Nat) (w : Words) (m : Word) :
    absorb c w m =
      { sipRound^[c] { w with v3 := w.v3 ^^^ m } with v0 := (sipRound^[c] { w with v3 := w.v3 ^^^ m }).v0 ^^^ m } := by
  simp only [absorb, sipRounds_eq_iterate]

/-! ### BLOCK and LAST in ABSORB (R101, R102) -/

theorem exec_block {s : State} (m : Word) (h : s.phase = .absorb) :
    exec (.block m) s = .next { s with v := absorb s.params.c s.v m, len := s.len + 8, phase := .absorb } := by
  have hgo : phaseTable s.phase .block = .go .absorb := by rw [h]; rfl
  rw [exec_of_wf rfl]
  exact congrArg _ (sequenced_go _ hgo)

theorem exec_last {s : State} {remaining : List Byte} (hlen : remaining.length ≤ 7) (h : s.phase = .absorb) :
    exec (.last remaining) s =
      .next { s with v := absorb s.params.c s.v (lastWord s.len remaining), phase := .padded } := by
  have hgo : phaseTable s.phase .last = .go .padded := by rw [h]; rfl
  rw [exec_of_wf ((wf_last_iff _).mpr hlen)]
  exact congrArg _ (sequenced_go _ hgo)

end Sys2Proof.Machine

namespace Sys2Proof.Proofs
open Sys2Proof.Machine

/-- Settles O32: BLOCK's row of the phase table, with Absorb as iterated rounds, and its control byte. -/
theorem blockAbsorbsWord : Obligations.BlockAbsorbsWord := by
  intro m s
  refine ⟨fun hp => ⟨s.len + 8, BitVec.toNat_add s.len 8, ?_⟩, ?_, exec_in_fault rfl, fun _ => controlByte_of_decode⟩
  · rw [exec_block m hp, absorb_eq_iterate]
  · rintro (hp | hp | hp) <;> exact exec_of_seq rfl hp rfl

/-- Settles O33: LAST's row of the phase table, with the word absorbed given by its value, and its control byte. -/
theorem lastAbsorbsPaddedBlock : Obligations.LastAbsorbsPaddedBlock := by
  intro remaining s hlen
  have hwf : (Instr.last remaining).wf = true := (wf_last_iff _).mpr hlen
  refine ⟨fun hp => ⟨lastWord s.len remaining, lastWord_toNat s.len hlen, ?_⟩, ?_, exec_in_fault hwf, fun cw hd => ?_⟩
  · rw [exec_last hlen hp, absorb_eq_iterate]
  · rintro (hp | hp | hp) <;> exact exec_of_seq hwf hp rfl
  · rw [controlByte_of_decode hd, encodeControl_last_toNat hlen]

end Sys2Proof.Proofs
end

