-- ==== Sys2Proof/Proofs/Finalization.lean ====
section
/-! PROOFS. The finalization of spec/43_finalization.md: FIN for 64-bit output (R111) and for 128-bit output (R112). -/

namespace Sys2Proof.Machine

/-! ### FIN under the phase table (R25) -/

theorem exec_fin {s : State} (h : s.phase = .padded) :
    exec .fin s =
      .next { s with
        v := (finalize s.params s.v).1
        digest := (finalize s.params s.v).2
        dvalid := true
        phase := .done } := by
  have hgo : phaseTable s.phase .fin = .go .done := by rw [h]; rfl
  rw [exec_of_wf rfl]
  exact congrArg _ (sequenced_go _ hgo)

theorem exec_fin_sequenceFault {s : State} (h : s.phase = .idle ∨ s.phase = .absorb ∨ s.phase = .done) :
    ∃ t : State, exec .fin s = .next t ∧ State.FaultEntry .sequenceFault s t := by
  rcases h with hp | hp | hp <;> exact exec_of_seq rfl hp rfl

/-! ### The output multiplexer (R113) -/

theorem finalize_of_w64 {p : Params} (w : Words) (h : p.width = .w64) : finalize p w = finalizeNarrow p.d w := by
  simp only [finalize, h]

theorem finalize_of_w128 {p : Params} (w : Words) (h : p.width = .w128) : finalize p w = finalizeWide p.d w := by
  simp only [finalize, h]

/-! ### The words before each squeeze -/

/-- What the 64-bit finalization squeezes: `v2 ^= 0xff`, then the rounds (R111). -/
def narrowWords (d : Nat) (w : Words) : Words := sipRound^[d] { w with v2 := w.v2 ^^^ finNarrow }

/-- What the 128-bit finalization squeezes first: `v2 ^= 0xee`, then the rounds (R112). -/
def wideFirstWords (d : Nat) (w : Words) : Words := sipRound^[d] { w with v2 := w.v2 ^^^ finWide }

/-- What the 128-bit finalization squeezes second: from the first squeeze's words, `v1 ^= 0xdd`, then the rounds (R112). -/
def wideSecondWords (d : Nat) (w : Words) : Words :=
  sipRound^[d] { wideFirstWords d w with v1 := (wideFirstWords d w).v1 ^^^ finWideSecond }

theorem finalizeNarrow_eq (d : Nat) (w : Words) :
    finalizeNarrow d w = (narrowWords d w, .narrow (squeeze (narrowWords d w))) := by
  simp only [finalizeNarrow, sipRounds_eq_iterate, narrowWords]

theorem finalizeWide_eq (d : Nat) (w : Words) :
    finalizeWide d w =
      (wideSecondWords d w, .wide (squeeze (wideSecondWords d w) ++ squeeze (wideFirstWords d w))) := by
  simp only [finalizeWide, sipRounds_eq_iterate, wideSecondWords, wideFirstWords]

/-! ### FIN at each width (R111, R112) -/

theorem exec_fin_narrow {s : State} (hw : s.params.width = .w64) (h : s.phase = .padded) :
    exec .fin s =
      .next { s with
        v := narrowWords s.params.d s.v
        digest := .narrow (squeeze (narrowWords s.params.d s.v))
        dvalid := true
        phase := .done } := by
  rw [exec_fin h, finalize_of_w64 s.v hw, finalizeNarrow_eq]

theorem exec_fin_wide {s : State} (hw : s.params.width = .w128) (h : s.phase = .padded) :
    exec .fin s =
      .next { s with
        v := wideSecondWords s.params.d s.v
        digest := .wide (squeeze (wideSecondWords s.params.d s.v) ++ squeeze (wideFirstWords s.params.d s.v))
        dvalid := true
        phase := .done } := by
  rw [exec_fin h, finalize_of_w128 s.v hw, finalizeWide_eq]

end Sys2Proof.Machine

namespace Sys2Proof.Proofs
open Sys2Proof.Machine

/-- Settles O37: FIN's row of the phase table with the 64-bit finalization as iterated rounds, and its control byte. -/
theorem finSqueezesNarrow : Obligations.FinSqueezesNarrow := fun _ hw =>
  ⟨exec_fin_narrow hw, exec_fin_sequenceFault, exec_in_fault rfl, fun _ => controlByte_of_decode⟩

/-- Settles O38: FIN's row of the phase table with the 128-bit finalization; the digest is the second squeeze above the
first, so its low half is the first. -/
theorem finSqueezesWide : Obligations.FinSqueezesWide := fun _ hw =>
  ⟨fun hp => ⟨_, lowWord_append _ _, highWord_append _ _, exec_fin_wide hw hp⟩,
    exec_fin_sequenceFault, exec_in_fault rfl, fun _ => controlByte_of_decode⟩

end Sys2Proof.Proofs
end

