-- ==== Sys2Proof/Proofs/Facade.lean ====
section
/-! PROOFS. The host's key Normalizer of spec/44_facade.md: the infallible shapes and INIT's data field (R121), byte slices
long and short (R122, R123). -/

namespace Sys2Proof.Machine

/-! ### Sixteen key bytes (R121, R122) -/

theorem toList_eq_getElem (b : Vector Byte 16) :
    b.toList = [b[0], b[1], b[2], b[3], b[4], b[5], b[6], b[7], b[8], b[9], b[10], b[11], b[12], b[13], b[14], b[15]] :=
  (congrArg Vector.toList (Vector.ofFn_getElem (xs := b)).symm).trans Vector.toList_ofFn

theorem keyOfBytes_ne_keyTooShort (bytes : List Byte) : keyOfBytes bytes ≠ .keyTooShort :=
  Normalized.noConfusion

/-- What follows the first sixteen bytes does not count (R122). -/
theorem keyOfBytes_append {bytes : List Byte} (more : List Byte) (h : bytes.length = 16) :
    keyOfBytes (bytes ++ more) = keyOfBytes bytes := by
  have hlow : 8 ≤ bytes.length := by omega
  have hhigh : 8 ≤ (bytes.drop 8).length := by rw [List.length_drop]; omega
  simp only [keyOfBytes, List.drop_append_of_le_length hlow, List.take_append_of_le_length hlow,
    List.take_append_of_le_length hhigh]

/-! ### The Normalizer by the length of a slice (R122, R123) -/

theorem normalizeKey_byteSlice_of_lt {bytes : List Byte} (h : bytes.length < 16) :
    normalizeKey (.byteSlice bytes) = .keyTooShort :=
  if_pos h

theorem normalizeKey_byteSlice_of_le {bytes : List Byte} (h : 16 ≤ bytes.length) :
    normalizeKey (.byteSlice bytes) = keyOfBytes bytes :=
  if_neg (Nat.not_lt.mpr h)

/-! ### What the facade issues (R123, R125) -/

theorem facadeSamples_of_keyTooShort {key : KeyMaterial} (msg : List Byte) (h : normalizeKey key = .keyTooShort) :
    facadeSamples key msg = none := by
  simp only [facadeSamples, h]

theorem facadeSamples_of_key {key : KeyMaterial} {k0 k1 : Word} (msg : List Byte) (h : normalizeKey key = .key k0 k1) :
    facadeSamples key msg = some (issue (transaction k0 k1 msg)) := by
  simp only [facadeSamples, h]

/-! ### Sixteen bytes as INIT's data field (R43, R65, R70) -/

/-- The load of the second eight bytes above that of the first eight is the load of all sixteen. -/
theorem le64_append_le64 {lo hi : List Byte} (hlo : lo.length = 8) (hhi : hi.length ≤ 8) :
    le64 hi ++ le64 lo = BitVec.ofNat 128 (littleEndian (lo ++ hi)) := by
  have hlt : littleEndian lo < 2 ^ 64 := by simpa [hlo] using littleEndian_lt lo
  have hall : littleEndian (lo ++ hi) < 2 ^ 128 := lt_of_lt_of_le (littleEndian_lt _)
    (Nat.pow_le_pow_right (by norm_num) (by rw [List.length_append]; omega))
  apply BitVec.eq_of_toNat_eq
  rw [BitVec.toNat_append, le64_toNat hlo.le, le64_toNat hhi, BitVec.toNat_ofNat, Nat.mod_eq_of_lt hall,
    ← Nat.shiftLeft_add_eq_or_of_lt hlt, Nat.shiftLeft_eq, littleEndian_append, hlo]
  ring

theorem dataField_encode_initB {secret : List Byte} (h : secret.length = 16) :
    dataField (encode (initB secret)) = BitVec.ofNat 128 (littleEndian secret) := by
  have hlo : (secret.take 8).length = 8 := by rw [List.length_take]; omega
  have hdrop : (secret.drop 8).length = 8 := by rw [List.length_drop]; omega
  have hhi : (secret.drop 8).take 8 = secret.drop 8 := List.take_of_length_le hdrop.le
  rw [dataField_encode, initB, encodeData, hhi, le64_append_le64 hlo hdrop.le, List.take_append_drop]

theorem byteLane_dataField_initB {secret : List Byte} (h : secret.length = 16) {j : Nat} (hj : j < secret.length) :
    byteLane (dataField (encode (initB secret))) j = secret[j] := by
  rw [dataField_encode_initB h]
  exact lane_littleEndian secret 128 j hj (by omega)

end Sys2Proof.Machine

namespace Sys2Proof.Proofs
open Sys2Proof.Machine

/-- Settles O49: an integer's two halves are the data field, and an array's two words are INITB's, whose data field holds
its bytes lane by lane. -/
theorem infallibleKeyShapes : Obligations.InfallibleKeyShapes := by
  refine ⟨fun _ _ => rfl, fun x => ⟨rfl, ?_⟩, ?_, fun b => keyOfBytes_ne_keyTooShort b.toList⟩
  · rw [dataField_encode]
    exact highWord_append_lowWord x
  · intro b k0 k1 hkey
    have hwords : keyOfBytes b.toList = .key k0 k1 := hkey
    obtain ⟨rfl, rfl⟩ := Normalized.key.inj hwords
    refine ⟨?_, ?_, fun j hj => ?_⟩
    · rw [toList_eq_getElem]; rfl
    · rw [toList_eq_getElem]; rfl
    · exact byteLane_dataField_initB b.length_toList (b.length_toList.symm ▸ hj)

/-- Settles O51: a slice by its length, below 16 and from 16 on; a slice that begins with an array's bytes decodes as the
array. -/
theorem shortKeyIssuesNothing : Obligations.ShortKeyIssuesNothing := by
  refine ⟨fun bytes msg => ⟨fun hshort => ?_, fun hlong => ?_⟩, fun b more => ?_⟩
  · have hkey := normalizeKey_byteSlice_of_lt hshort
    exact ⟨hkey, facadeSamples_of_keyTooShort msg hkey, fun polls s => facade_of_keyTooShort polls msg s hkey⟩
  · have hkey := normalizeKey_byteSlice_of_le hlong
    refine ⟨hkey ▸ keyOfBytes_ne_keyTooShort bytes, ?_⟩
    rw [facadeSamples_of_key msg hkey]
    rfl
  · have hlong : 16 ≤ (b.toList ++ more).length := by rw [List.length_append, Vector.length_toList]; omega
    calc normalizeKey (.byteSlice (b.toList ++ more)) = keyOfBytes (b.toList ++ more) := normalizeKey_byteSlice_of_le hlong
      _ = keyOfBytes b.toList := keyOfBytes_append more b.length_toList

end Sys2Proof.Proofs
end

/-! PROOFS. The exceptions of spec/60_exceptions.md: the order of checks (R144), SequenceFault (R141) and phase FAULT
(R145, R146). -/

namespace Sys2Proof.Machine

/-! ### The order of checks (R144)

The check of the encoding is `accept_of_illegal` and `step_of_illegal`. -/

theorem accept_in_fault (cw : CommandWord) {s : State} (h : s.phase = .fault) : accept cw s = .next s :=
  if_pos h

theorem accept_of_command {cw : CommandWord} {s : State} {i : Instr} (hp : s.phase ≠ .fault)
    (h : decode cw = .command i) : accept cw s = exec i s := by
  simp only [accept, if_neg hp, h]

section
variable {s : State} {cw : CommandWord} {rest : List PortSample} (hh : s.host = PortSample.offer cw :: rest)
include hh

theorem step_in_fault (h : s.phase = .fault) : step s = .next { s with host := rest, draws := s.draws + 1 } := by
  rw [step_offer hh, ← takeSample_of_host hh]
  exact accept_in_fault cw h

theorem step_of_command {i : Instr} (hp : s.phase ≠ .fault) (h : decode cw = .command i) :
    step s = exec i { s with host := rest, draws := s.draws + 1 } := by
  rw [step_offer hh, ← takeSample_of_host hh]
  exact accept_of_command hp h

end

/-! ### The rows of the phase table outside FAULT (R25)

INIT's row is `phaseTable_init`. -/

/-- BLOCK and LAST are in sequence in ABSORB alone. -/
theorem phaseTable_block_last_seq {p : Phase} (hlive : p ≠ .fault) (h : p ≠ .absorb) :
    phaseTable p .block = .seq ∧ phaseTable p .last = .seq := by
  cases p with
  | absorb => exact absurd rfl h
  | fault => exact absurd rfl hlive
  | idle | padded | done => exact ⟨rfl, rfl⟩

/-- FIN is in sequence in PADDED alone. -/
theorem phaseTable_fin_seq {p : Phase} (hlive : p ≠ .fault) (h : p ≠ .padded) : phaseTable p .fin = .seq := by
  cases p with
  | padded => exact absurd rfl h
  | fault => exact absurd rfl hlive
  | idle | absorb | done => rfl

/-- A command that executes raises no fault. -/
theorem exec_live_of_go {i : Instr} {s : State} {next : Phase} (hwf : i.wf = true)
    (hgo : phaseTable s.phase (commandOf i) = .go next) : ∃ t : State, exec i s = .next t ∧ t.phase ≠ .fault := by
  obtain ⟨t, ht, rfl⟩ := exec_of_go hwf rfl hgo
  exact ⟨t, ht, fun hfault => phaseTable_go_ne_fault _ _ (hfault ▸ hgo)⟩

/-! ### INIT and ERRCODE (R82, R141) -/

/-- INIT writes no ERRCODE: it executes, which leaves the code, or it is dropped. -/
theorem exec_init_err {k0 k1 : Word} {s t : State} (h : exec (.init k0 k1) s = .next t) : t.err = s.err := by
  by_cases hp : s.phase = .fault
  · cases (exec_in_fault rfl hp).symm.trans h
    rfl
  · cases (exec_init k0 k1 hp).symm.trans h
    rfl

end Sys2Proof.Machine

namespace Sys2Proof.Proofs
open Sys2Proof.Machine

/-- Settles O13, check by check: out of sequence is a "SEQ" entry of the phase table and in sequence a "go" entry, command
by command. -/
theorem orderOfChecks : Obligations.OrderOfChecks := by
  intro s cw rest hh s'
  refine ⟨step_in_fault hh, fun hp hillegal => ?_, fun hp i hd hout => ?_, fun hp i hd hin => ?_⟩
  · obtain ⟨why, hd⟩ := hillegal
    exact ⟨_, step_of_illegal hp hh hd, takeFault_faultEntry .illegalCommand s'⟩
  · have hseq : Machine.phaseTable s.phase (commandOf i) = .seq := by
      cases i with
      | init => exact hout.elim
      | block => exact (phaseTable_block_last_seq hp hout).1
      | last => exact (phaseTable_block_last_seq hp hout).2
      | fin => exact phaseTable_fin_seq hp hout
    rw [step_of_command hh hp hd]
    exact exec_of_seq (wf_of_decode hd) rfl hseq
  · obtain ⟨next, hgo⟩ : ∃ next, Machine.phaseTable s.phase (commandOf i) = .go next := by
      cases i with
      | init => exact ⟨_, phaseTable_init hp⟩
      | block | last | fin => exact ⟨_, congrArg (Machine.phaseTable · _) hin⟩
    exact ⟨step_of_command hh hp hd, exec_live_of_go (s := s') (wf_of_decode hd) hgo⟩

/-- Settles O18: the "SEQ" entries of the phase table, row by row; INIT's row has none. -/
theorem sequenceFaultCases : Obligations.SequenceFaultCases := by
  intro s
  refine ⟨fun hp m => ?_, fun hp remaining hlen => ?_, exec_fin_sequenceFault, fun _ _ _ => exec_init_err⟩
  · rcases hp with hp | hp | hp <;> exact exec_of_seq rfl hp rfl
  · rcases hp with hp | hp | hp <;> exact exec_of_seq ((wf_last_iff _).mpr hlen) hp rfl

/-- Settles O20: the acceptance of a word and the phase table both drop in FAULT, and the ready port is constant. -/
theorem faultDropsEveryCommand : Obligations.FaultDropsEveryCommand := fun _ hp =>
  ⟨fun _ _ hh => step_in_fault hh hp, fun _ hwf => exec_in_fault hwf hp, rfl⟩

/-- Settles O21: of the three things a step can do, holding and accepting a command stay in FAULT. -/
theorem onlyResetLeavesFault : Obligations.OnlyResetLeavesFault := by
  intro s t hp hstep hleft
  rcases step_cases s with ⟨_, hs⟩ | ⟨hreset, hs⟩ | ⟨p, _, _, _, _, hs⟩
  · cases hs.symm.trans hstep
    exact absurd hp hleft
  · cases hs.symm.trans hstep
    exact ⟨hreset, rfl, rfl⟩
  · cases (hs.trans (accept_in_fault p.cmd hp)).symm.trans hstep
    exact absurd hp hleft

end Sys2Proof.Proofs

/-! PROOFS. The reset event and the hazards of spec/70_reset_and_hazards.md: what changes state (R160, R161) and the
lifetime of the digest (R165). -/

namespace Sys2Proof.Machine

/-! ### The reset event (R160, R161) -/

/-- `rst` wins: of the sample that asserts it, nothing else is read. -/
theorem step_of_rst {s : State} {p : PortSample} {rest : List PortSample} (hh : s.host = p :: rest)
    (hrst : p.rst = true) : step s = .next (resetEvent { s with host := rest, draws := s.draws + 1 }) := by
  rw [← takeSample_of_host hh]
  simp only [step, hh, serve, hrst, if_true]

/-! ### Neither reset nor command (R151, R160) -/

theorem step_of_idle_ports {s : State} (h : ∀ p rest, s.host = p :: rest → p.rst = false ∧ p.cmdValid = false) :
    step s = .next s.takeSample := by
  rcases step_cases s with ⟨_, hs⟩ | ⟨⟨p, rest, hh, hrst⟩, _⟩ | ⟨p, rest, hh, _, hvalid, _⟩
  · exact hs
  · exact absurd hrst (ne_true_of_eq_false (h p rest hh).1)
  · exact absurd hvalid (ne_true_of_eq_false (h p rest hh).2)

/-! ### The digest while it is valid (R27, R165) -/

theorem digestPort_of_valid {s : State} (h : s.dvalid = true) : s.digestPort = s.digest :=
  if_pos h

/-- DONE's row of the table: INIT alone is in sequence (R25). -/
theorem phaseTable_done_seq {c : Command} (h : c ≠ .init) : phaseTable .done c = .seq := by
  cases c with
  | init => exact absurd rfl h
  | block | last | fin => rfl

/-- In DONE an accepted command word is an INIT or faults, as illegal or as out of sequence. -/
theorem accept_in_done {cw : CommandWord} {s t : State} (hp : s.phase = .done) (h : accept cw s = .next t) :
    (∃ k0 k1, decode cw = .command (.init k0 k1)) ∨ t.phase = .fault := by
  rcases accept_cases cw s with ⟨hfault, _⟩ | ⟨_, _, ha⟩ | ⟨_, i, hd, _, ha⟩
  · cases hp.symm.trans hfault
  · cases ha.symm.trans h
    exact .inr rfl
  · by_cases hi : commandOf i = .init
    · cases i with
      | init k0 k1 => exact .inl ⟨k0, k1, hd⟩
      | block | last | fin => cases hi
    · rw [sequenced_seq _ (hp ▸ phaseTable_done_seq hi)] at ha
      cases ha.symm.trans h
      exact .inr rfl

end Sys2Proof.Machine

namespace Sys2Proof.Proofs
open Sys2Proof.Machine

/-- Settles O22: two offers under `rst` leave one and the same state, and that only a reset leaves FAULT is
`onlyResetLeavesFault`. -/
theorem resetEventFromAnyState : Obligations.ResetEventFromAnyState := by
  refine ⟨fun s p rest hh hrst => ⟨_, step_of_rst hh hrst, rfl, rfl, rfl, rfl, rfl⟩,
    fun s t t' _ _ _ _ rest ht ht' => ?_, fun s t hstep hidle => ?_, fun s t hstep hp hnorst => ?_⟩
  · cases (step_of_rst rfl rfl).symm.trans ht
    cases (step_of_rst rfl rfl).symm.trans ht'
    exact ⟨rfl, rfl, rfl, rfl, rfl, rfl⟩
  · cases (step_of_idle_ports hidle).symm.trans hstep
    rfl
  · by_contra hleft
    obtain ⟨⟨p, rest, hh, hrst⟩, _, _⟩ := onlyResetLeavesFault s t hp hstep hleft
    exact ne_true_of_eq_false (hnorst p rest hh) hrst

/-- Settles O43: DVALID = 1 means phase DONE, where a step holds, resets, or accepts a word that is an INIT or faults. -/
theorem digestLifetime : Obligations.DigestLifetime := by
  refine ⟨fun s t ht hp => ?_, fun s t hinv hvalid hstep => ?_⟩
  · cases (exec_fin hp).symm.trans ht
    exact ⟨rfl, digestPort_of_valid rfl⟩
  · obtain ⟨hvalidIffDone, _⟩ := hinv
    rcases step_cases s with ⟨_, hs⟩ | ⟨hreset, _⟩ | ⟨p, rest, hh, hrst, hcmd, hs⟩
    · cases hs.symm.trans hstep
      have hport : s.takeSample.digestPort = s.digest := digestPort_of_valid (s := s.takeSample) hvalid
      exact .inl ⟨hvalid, rfl, hport.trans (digestPort_of_valid hvalid).symm⟩
    · exact .inr (.inl hreset)
    · rcases accept_in_done (s := s.takeSample) (hvalidIffDone.mp hvalid) (hs.symm.trans hstep) with ⟨k0, k1, hd⟩ | hfault
      · exact .inr (.inr (.inl ⟨p, rest, k0, k1, hh, hrst, hcmd, hd⟩))
      · exact .inr (.inr (.inr hfault))

end Sys2Proof.Proofs

/-! PROOFS. What a step can do, in one list, and what follows from it alone: the invariant of spec/10_state.md section 9
(R33), fault entry (R143), the parameters and that every step goes on. -/

namespace Sys2Proof.Machine

/-! ### The outcomes of a step (R25, R61, R144, R161) -/

/-- `StepsTo s t`: one of the five ways in which a step from `s` ends in `t`. -/
inductive StepsTo (s : State) : State → Prop
  /-- Nothing but the sample is taken: no command on offer, or one dropped in FAULT. -/
  | holds : StepsTo s s.takeSample
  /-- The sample asserts `rst`. -/
  | resets : StepsTo s (resetEvent s.takeSample)
  /-- An accepted word with a reserved control byte. -/
  | rejects {p : PortSample} {rest : List PortSample} {why : IllegalWhy} (host_eq : s.host = p :: rest)
      (rst_eq : p.rst = false) (valid_eq : p.cmdValid = true) (decode_eq : decode p.cmd = .illegal why) :
      StepsTo s (takeFault .illegalCommand s.takeSample)
  /-- An accepted command that is out of sequence. -/
  | outOfSequence {p : PortSample} {rest : List PortSample} {i : Instr} (host_eq : s.host = p :: rest)
      (rst_eq : p.rst = false) (valid_eq : p.cmdValid = true) (decode_eq : decode p.cmd = .command i) :
      StepsTo s (takeFault .sequenceFault s.takeSample)
  /-- An accepted command that executes and goes to the phase the table gives. -/
  | executes {i : Instr} {next : Phase} (go : phaseTable s.phase (commandOf i) = .go next) :
      StepsTo s { effectOf i s.takeSample with phase := next }

theorem exists_step (s : State) : ∃ t, step s = .next t ∧ StepsTo s t := by
  rcases step_cases s with ⟨_, hs⟩ | ⟨_, hs⟩ | ⟨p, rest, hh, hrst, hvalid, hs⟩
  · exact ⟨_, hs, .holds⟩
  · exact ⟨_, hs, .resets⟩
  · rcases accept_cases p.cmd s.takeSample with ⟨_, ha⟩ | ⟨_, ⟨why, hd⟩, ha⟩ | ⟨hlive, i, hd, _, ha⟩
    · exact ⟨_, hs.trans ha, .holds⟩
    · exact ⟨_, hs.trans ha, .rejects hh hrst hvalid hd⟩
    · rcases sequenced_cases (commandOf i) (effectOf i) s.takeSample with ⟨next, hgo, he⟩ | ⟨_, he⟩ | ⟨hdrop, _⟩
      · exact ⟨_, hs.trans ha, he ▸ .executes hgo⟩
      · exact ⟨_, hs.trans ha, he ▸ .outOfSequence hh hrst hvalid hd⟩
      · exact absurd ((phaseTable_drop_iff _ _).mp hdrop) hlive

theorem stepsTo_of_step {s t : State} (h : step s = .next t) : StepsTo s t := by
  obtain ⟨u, hu, hsteps⟩ := exists_step s
  cases hu.symm.trans h
  exact hsteps

/-! ### The frame of a step -/

theorem step_params {s t : State} (h : step s = .next t) : t.params = s.params := by
  cases stepsTo_of_step h with
  | holds | resets | rejects | outOfSequence => rfl
  | executes => exact (effectOf_frame _ _).1

/-- A step takes one sample, whatever it does with it. -/
theorem step_host {s t : State} (h : step s = .next t) : t.host = s.host.tail := by
  cases stepsTo_of_step h with
  | holds | resets | rejects | outOfSequence => rfl
  | executes => exact (effectOf_frame _ _).2.1

/-! ### The invariant (R33) -/

theorem validIffDone_of_ne_done {s : State} (hvalid : s.dvalid = false) (hp : s.phase ≠ .done) : s.ValidIffDone :=
  ⟨fun h => absurd (hvalid.symm.trans h) Bool.false_ne_true, fun h => absurd h hp⟩

theorem validIffDone_of_done {s : State} (hvalid : s.dvalid = true) (hp : s.phase = .done) : s.ValidIffDone :=
  ⟨fun _ => hp, fun _ => hvalid⟩

theorem errorIffFault_of_live {s : State} (herr : s.err = .none) (hp : s.phase ≠ .fault) : s.ErrorIffFault :=
  ⟨fun h => absurd herr h, fun h => absurd h hp⟩

/-- Outside DONE no digest is valid, and outside FAULT no error is recorded. -/
theorem dvalid_eq_false_of_ne_done {s : State} (h : s.ValidIffDone) (hp : s.phase ≠ .done) : s.dvalid = false :=
  Bool.eq_false_iff.mpr fun hvalid => hp (h.mp hvalid)

theorem err_eq_none_of_live {s : State} (h : s.ErrorIffFault) (hp : s.phase ≠ .fault) : s.err = .none := by
  by_contra herr
  exact hp (h.mp herr)

theorem resetOf_inv (p : Params) : (State.resetOf p).Inv :=
  ⟨validIffDone_of_ne_done rfl Phase.noConfusion, errorIffFault_of_live rfl Phase.noConfusion, Phase.noConfusion,
    digestZero_width p.width⟩

theorem resetEvent_inv (s : State) : (resetEvent s).Inv :=
  ⟨validIffDone_of_ne_done rfl Phase.noConfusion, errorIffFault_of_live rfl Phase.noConfusion, Phase.noConfusion,
    freeDigest_width s.params.width s.draws⟩

theorem takeFault_inv {e : ErrCode} {s : State} (he : e ≠ .none) (h : s.DigestFits) : (takeFault e s).Inv :=
  ⟨validIffDone_of_ne_done rfl Phase.noConfusion, ⟨fun _ => rfl, fun _ => he⟩, Phase.noConfusion,
    (faultDigest_width s.draws s.digest).trans h⟩

/-! The "go" entries of the table, command by command (R25). -/

theorem live_of_go {p next : Phase} {c : Command} (h : phaseTable p c = .go next) : p ≠ .fault := fun hp =>
  PhaseAction.noConfusion (h.symm.trans ((phaseTable_drop_iff p c).mpr hp))

theorem phaseTable_init_go {p next : Phase} (h : phaseTable p .init = .go next) : next = .absorb := by
  cases p <;> cases h <;> rfl

theorem phaseTable_block_go {p next : Phase} (h : phaseTable p .block = .go next) : p = .absorb ∧ next = .absorb := by
  cases p <;> cases h; exact ⟨rfl, rfl⟩

theorem phaseTable_last_go {p next : Phase} (h : phaseTable p .last = .go next) : p = .absorb ∧ next = .padded := by
  cases p <;> cases h; exact ⟨rfl, rfl⟩

theorem phaseTable_fin_go {p next : Phase} (h : phaseTable p .fin = .go next) : p = .padded ∧ next = .done := by
  cases p <;> cases h; exact ⟨rfl, rfl⟩

/-- A block adds 8 to LEN and wraps at 256, itself a multiple of 8. -/
theorem add_eight_mod_eight {len : Byte} (h : len.toNat % 8 = 0) : (len + 8).toNat % 8 = 0 := by
  have hsum : (len + 8).toNat = (len.toNat + 8) % 256 := BitVec.toNat_add len 8
  omega

/-- An executed command keeps the invariant: INIT starts LEN anew, BLOCK adds 8 to it, LAST leaves ABSORB and FIN makes a
digest of the width W. -/
theorem effectOf_inv {i : Instr} {s : State} {next : Phase} (h : s.Inv)
    (hgo : phaseTable s.phase (commandOf i) = .go next) : ({ effectOf i s with phase := next } : State).Inv := by
  obtain ⟨hvalid, herror, hlength, hfits⟩ := h
  have herr : s.err = .none := err_eq_none_of_live herror (live_of_go hgo)
  cases i with
  | init k0 k1 =>
    obtain rfl := phaseTable_init_go hgo
    exact ⟨validIffDone_of_ne_done rfl Phase.noConfusion, errorIffFault_of_live herr Phase.noConfusion, fun _ => rfl,
      (initDigest_width _ _).trans hfits⟩
  | block m =>
    obtain ⟨hp, rfl⟩ := phaseTable_block_go hgo
    have hdvalid : s.dvalid = false := dvalid_eq_false_of_ne_done hvalid (by simp [hp])
    exact ⟨validIffDone_of_ne_done hdvalid Phase.noConfusion, errorIffFault_of_live herr Phase.noConfusion,
      fun _ => add_eight_mod_eight (hlength hp), hfits⟩
  | last remaining =>
    obtain ⟨hp, rfl⟩ := phaseTable_last_go hgo
    have hdvalid : s.dvalid = false := dvalid_eq_false_of_ne_done hvalid (by simp [hp])
    exact ⟨validIffDone_of_ne_done hdvalid Phase.noConfusion, errorIffFault_of_live herr Phase.noConfusion,
      Phase.noConfusion, hfits⟩
  | fin =>
    obtain ⟨_, rfl⟩ := phaseTable_fin_go hgo
    exact ⟨validIffDone_of_done rfl rfl, errorIffFault_of_live herr Phase.noConfusion, Phase.noConfusion,
      finalize_width _ _⟩

theorem step_inv {s t : State} (h : s.Inv) (hstep : step s = .next t) : t.Inv := by
  have hsample : s.takeSample.Inv := h
  have ⟨_, _, _, hfits⟩ := hsample
  cases stepsTo_of_step hstep with
  | holds => exact hsample
  | resets => exact resetEvent_inv _
  | rejects | outOfSequence => exact takeFault_inv ErrCode.noConfusion hfits
  | executes hgo => exact effectOf_inv hsample hgo

/-! ### The output ports (R27, R28) -/

theorem resetOf_statusPort (p : Params) : (State.resetOf p).statusPort = 0 := by
  rw [State.statusPort, resetOf_err, resetOf_dvalid, resetOf_phase]
  rfl

@[simp] theorem freePort_width (w : OutputWidth) (draw : Nat) : (freePort w draw).width = w := by
  cases w <;> rfl

theorem digestPort_width {s : State} (h : s.DigestFits) : s.digestPort.width = s.params.width := by
  unfold State.digestPort
  split
  · exact h
  · exact freePort_width _ _

/-! ### Fault entry (R143) -/

/-- What executes does not enter FAULT, and neither does a reset; what holds there was there. -/
theorem faultEntry_of_step {s t : State} (hlive : s.phase ≠ .fault) (hstep : step s = .next t) (ht : t.phase = .fault) :
    State.FaultEntry t.err s.takeSample t ∧
      ∃ p rest, s.host = p :: rest ∧ p.rst = false ∧ p.cmdValid = true ∧
        ((t.err = .illegalCommand ∧ ∃ why, decode p.cmd = .illegal why) ∨
          (t.err = .sequenceFault ∧ ∃ i, decode p.cmd = .command i)) := by
  cases stepsTo_of_step hstep with
  | holds => exact absurd ht hlive
  | resets => cases ht
  | rejects hh hrst hvalid hd =>
    exact ⟨takeFault_faultEntry _ _, _, _, hh, hrst, hvalid, .inl ⟨rfl, _, hd⟩⟩
  | outOfSequence hh hrst hvalid hd =>
    exact ⟨takeFault_faultEntry _ _, _, _, hh, hrst, hvalid, .inr ⟨rfl, _, hd⟩⟩
  | executes hgo =>
    cases ht
    exact absurd hgo (phaseTable_go_ne_fault _ _)

end Sys2Proof.Machine

namespace Sys2Proof.Proofs
open Sys2Proof.Machine

/-- Settles O3, by the five ways a step can end. -/
theorem stepKeepsInvariant : Obligations.StepKeepsInvariant := fun _ _ => step_inv

/-- Settles O15: each way in which a step can end is a next state. -/
theorem everyStepGoesOn : Obligations.EveryStepGoesOn := fun s =>
  (exists_step s).imp fun _ h => h.1

/-- Settles O19: of the five ways a step can end, the two that enter FAULT are fault entry after an accepted word. -/
theorem faultEntryWritesThreeItems : Obligations.FaultEntryWritesThreeItems := by
  intro s t hlive hstep ht
  obtain ⟨hentry, p, rest, hh, hrst, hvalid, hcause⟩ := faultEntry_of_step hlive hstep ht
  refine ⟨hentry, p, rest, hh, hrst, hvalid, ?_⟩
  rcases hcause with ⟨herr, hd⟩ | ⟨herr, hd⟩
  all_goals
    rw [herr]
    exact hd

/-- Settles O40: neither the reset event, nor fault entry, nor a command's effect writes the parameters. -/
theorem parametersNeverChange : Obligations.ParametersNeverChange := fun _ _ => step_params

/-- Settles O1: the fields of `State.resetOf`, and the port made of three of them. -/
theorem resetDefinedItems : Obligations.ResetDefinedItems :=
  ⟨fun p => ⟨resetOf_phase p, resetOf_dvalid p, resetOf_err p, resetOf_statusPort p, resetOf_params p, resetOf_host p⟩, rfl⟩

/-- Settles O2: IDLE is neither DONE nor FAULT nor ABSORB, and DIGEST is made for the width. -/
theorem resetSatisfiesInvariant : Obligations.ResetSatisfiesInvariant := resetOf_inv

/-- Settles O42: the port is DIGEST or a free value, both of the width W. -/
theorem digestPortShowsDigest : Obligations.DigestPortShowsDigest := by
  rintro s ⟨_, _, _, hfits⟩
  exact ⟨digestPort_of_valid, digestPort_width hfits⟩

end Sys2Proof.Proofs

/-! PROOFS. The encoding both ways (spec/30_encoding.md R64, R69), and the command on offer from the decoder to `exec`
(R61, R63, R144). -/

namespace Sys2Proof

/-! ### Decoding the canonical encoding (R69) -/

@[simp] theorem lowWord_setWidth (m : Word) : lowWord (m.setWidth 128) = m := by
  apply BitVec.eq_of_toNat_eq
  simp only [lowWord, BitVec.extractLsb'_toNat, BitVec.toNat_setWidth, Nat.shiftRight_zero]
  have := m.isLt
  omega

/-- The count field holds the length of a list of at most seven bytes. -/
theorem countField_encodeControl_last {remaining : List Byte} (h : remaining.length ≤ 7) :
    (countField (encodeControl (.last remaining))).toNat = remaining.length := by
  have count : ∀ n ≤ 7, (countField (0x02 + 4 * BitVec.ofNat 8 n)).toNat = n := by decide
  exact count _ h

/-- The first lanes of the data field are the bytes it was made of. -/
theorem remainingBytes_littleEndian {bytes : List Byte} (h : bytes.length ≤ 16) :
    remainingBytes (BitVec.ofNat 128 (littleEndian bytes)) bytes.length = bytes := by
  apply List.ext_getElem
  · rw [remainingBytes_length]
  · intro j _ hj
    rw [remainingBytes_getElem]
    exact lane_littleEndian bytes 128 j hj (by omega)

theorem decode_encode {i : Instr} (h : i.wf = true) : decode (encode i) = .command i := by
  have hctl := controlByte_encode i
  cases i with
  | init k0 k1 =>
    rw [decode_of_init hctl, dataField_encode, encodeData, lowWord_append, highWord_append]
  | block m =>
    rw [decode_of_block hctl, dataField_encode, encodeData, lowWord_setWidth]
  | last remaining =>
    have hlen := (wf_last_iff _).mp h
    obtain ⟨hres, hop⟩ := fields_of_lastPattern (encodeControl_last_pattern h)
    rw [decode_of_last (hctl ▸ hres) (hctl ▸ hop), hctl, countField_encodeControl_last hlen, dataField_encode, encodeData,
      remainingBytes_littleEndian (by omega)]
  | fin => exact decode_of_fin hctl

/-! ### Encoding what was decoded (R64) -/

/-- The data bits a command reads, of the 128 there are (R46). -/
def Instr.dataBits : Instr → Nat
  | .init _ _ => 128
  | .block _ => 64
  | .last remaining => 8 * remaining.length
  | .fin => 0

theorem toNat_lowWord (data : DataField) : (lowWord data).toNat = data.toNat % 2 ^ 64 := by
  rw [lowWord, BitVec.extractLsb'_toNat, Nat.shiftRight_zero]

/-- The canonical data field is the word's own with the ignored bits, all above those read, cleared. -/
theorem encodeData_of_decode {cw : CommandWord} {i : Instr} (h : decode cw = .command i) :
    (encodeData i).toNat = (dataField cw).toNat % 2 ^ i.dataBits := by
  have hlt := (dataField cw).isLt
  have below (k : Nat) : (dataField cw).toNat % k < 2 ^ 128 := lt_of_le_of_lt (Nat.mod_le _ k) hlt
  rcases decode_cases cw with ⟨_, hd⟩ | ⟨_, hd⟩ | ⟨_, _, _, hd⟩ | ⟨_, hd⟩ | ⟨_, hd⟩ | ⟨_, hd⟩ <;>
    cases hd.symm.trans h
  · rw [encodeData, BitVec.toNat_ofNat, littleEndian_remainingBytes, Nat.mod_eq_of_lt (below _), Instr.dataBits,
      remainingBytes_length]
  · rw [encodeData, highWord_append_lowWord, Instr.dataBits, Nat.mod_eq_of_lt hlt]
  · rw [encodeData, BitVec.toNat_setWidth, toNat_lowWord, Nat.mod_eq_of_lt (below _), Instr.dataBits]
  · rw [encodeData, Instr.dataBits, Nat.pow_zero, Nat.mod_one]
    rfl

/-- A count of 8 cannot be written (R63). -/
theorem decode_ne_overlong_last {remaining : List Byte} (h : 7 < remaining.length) (cw : CommandWord) :
    decode cw ≠ .command (.last remaining) := fun hd =>
  Nat.not_le.mpr h ((wf_last_iff _).mp (wf_of_decode hd))

theorem decodeTableWord_eq_some_iff {nbits w : Nat} {i : Instr} :
    decodeTableWord nbits w = some i ↔ decode (tableCommandWord nbits w) = .command i := by
  unfold decodeTableWord
  cases decode (tableCommandWord nbits w) <;> simp

end Sys2Proof

namespace Sys2Proof.Machine

theorem exec_overlong_last {remaining : List Byte} (h : 7 < remaining.length) (s : State) :
    exec (.last remaining) s = .refused .illFormed :=
  exec_of_not_wf (i := .last remaining) (decide_eq_false (Nat.not_le.mpr h)) s

end Sys2Proof.Machine

namespace Sys2Proof.Proofs
open Sys2Proof.Machine

/-- Settles O4, by the command: its control byte picks the decoder's branch, and each operand is read back from where the
encoder put it. -/
theorem decodeEncodeAgree : Obligations.DecodeEncodeAgree := fun _ => decode_encode

/-- Settles O5: the control byte is kept whole, and the data field up to the bits the command reads. -/
theorem encodeOfDecodedClearsIgnoredBits : Obligations.EncodeOfDecodedClearsIgnoredBits := by
  intro cw i h
  refine ⟨wf_of_decode h, (controlByte_encode i).trans (controlByte_of_decode h).symm, ?_⟩
  rw [dataField_encode]
  exact encodeData_of_decode h

/-- Settles O10: six closed words, evaluated. -/
theorem sampleWordsDecode : Obligations.SampleWordsDecode := by
  unfold Obligations.SampleWordsDecode
  decide

/-- Settles O11: the order of checks, past the phase and the encoding. -/
theorem stepRunsDecodedCommand : Obligations.StepRunsDecodedCommand := fun _ _ _ _ hlive hh hd =>
  step_of_command hh hlive hd

/-- Settles O12: the placed word is the next sample on offer, with the samples to come behind it. -/
theorem placedWordRunsNext : Obligations.PlacedWordRunsNext := fun s nbits w _ hlive hd =>
  step_of_command (s := s.withFetchWord nbits w) rfl hlive (decodeTableWord_eq_some_iff.mp hd)

/-- Settles O14: without a sample, or with one that asserts neither `rst` nor `cmd_valid`, a step takes the sample alone. -/
theorem idleEngineHoldsState : Obligations.IdleEngineHoldsState := by
  refine ⟨fun s hh => ?_, fun s cmd rest hh => ?_⟩
  · have hidle : step s = .next s.takeSample := step_of_idle_ports (by simp [hh])
    rw [hidle, State.takeSample, hh, List.tail_nil]
  · rw [step_of_idle_ports (by simp [hh]), takeSample_of_host hh]

/-- Settles O34: more than seven bytes fail the term's one check, which all that the decoder answers passes. -/
theorem overlongLastIsRefused : Obligations.OverlongLastIsRefused := fun _ s h =>
  ⟨exec_overlong_last h s, decode_ne_overlong_last h⟩

end Sys2Proof.Proofs

/-! PROOFS. What a command reads and leaves: its frame, the samples after it (spec/20_memory.md section 5), and the state
words, which show on no port (spec/10_state.md section 2). -/

namespace Sys2Proof.Machine

/-! ### The frames of the commands -/

/-- A command that does not end in FAULT executed. -/
theorem go_of_exec_live {i : Instr} {s t : State} (h : exec i s = .next t) (hlive : t.phase ≠ .fault) :
    ∃ next, phaseTable s.phase (commandOf i) = .go next ∧ t = { effectOf i s with phase := next } := by
  obtain ⟨_, rfl⟩ := exec_next_iff.mp h
  rcases sequenced_cases (commandOf i) (effectOf i) s with ⟨next, hgo, hs⟩ | ⟨_, hs⟩ | ⟨hdrop, hs⟩
  · exact ⟨next, hgo, hs⟩
  · rw [hs] at hlive
    exact absurd rfl hlive
  · rw [hs] at hlive
    exact absurd ((phaseTable_drop_iff _ _).mp hdrop) hlive

/-! ### The samples to come (R47, R105) -/

theorem takeFault_withHost (e : ErrCode) (s : State) (host : List PortSample) :
    takeFault e { s with host := host } = { takeFault e s with host := host } := rfl

theorem effectOf_withHost (i : Instr) (s : State) (host : List PortSample) :
    effectOf i { s with host := host } = { effectOf i s with host := host } := by
  cases i <;> rfl

theorem sequenced_withHost (i : Instr) (s : State) (host : List PortSample) :
    sequenced (commandOf i) (effectOf i) { s with host := host } =
      { sequenced (commandOf i) (effectOf i) s with host := host } := by
  rcases sequenced_cases (commandOf i) (effectOf i) s with ⟨next, hgo, hs⟩ | ⟨hseq, hs⟩ | ⟨hdrop, hs⟩
  · rw [hs, sequenced_go (s := { s with host := host }) _ hgo, effectOf_withHost]
  · rw [hs, sequenced_seq (s := { s with host := host }) _ hseq, takeFault_withHost]
  · rw [hs, sequenced_drop (s := { s with host := host }) _ hdrop]

theorem accept_withHost {cw : CommandWord} {s t : State} (host : List PortSample) (h : accept cw s = .next t) :
    accept cw { s with host := host } = .next { t with host := host } := by
  rcases accept_cases cw s with ⟨hp, ha⟩ | ⟨hlive, ⟨why, hd⟩, ha⟩ | ⟨hlive, i, hd, hwf, ha⟩ <;>
    cases ha.symm.trans h
  · exact accept_in_fault cw hp
  · exact accept_of_illegal hlive hd
  · rw [accept_of_command (s := { s with host := host }) hlive hd, exec_of_wf hwf, sequenced_withHost]

theorem serve_of_rst {p : PortSample} (hrst : p.rst = true) (s : State) : serve p s = .next (resetEvent s) :=
  if_pos hrst

theorem serve_of_command {p : PortSample} (hrst : p.rst = false) (hvalid : p.cmdValid = true) (s : State) :
    serve p s = accept p.cmd s := by
  simp [serve, hrst, hvalid]

theorem serve_of_idle {p : PortSample} (hrst : p.rst = false) (hvalid : p.cmdValid = false) (s : State) :
    serve p s = .next s := by
  simp [serve, hrst, hvalid]

/-- What is done with a sample does not depend on the samples after it. -/
theorem serve_withHost {p : PortSample} {s t : State} (host : List PortSample) (h : serve p s = .next t) :
    serve p { s with host := host } = .next { t with host := host } := by
  cases hrst : p.rst with
  | true =>
    cases (serve_of_rst hrst s).symm.trans h
    exact serve_of_rst hrst _
  | false =>
    cases hvalid : p.cmdValid with
    | true =>
      rw [serve_of_command hrst hvalid] at h ⊢
      exact accept_withHost host h
    | false =>
      cases (serve_of_idle hrst hvalid s).symm.trans h
      exact serve_of_idle hrst hvalid _

theorem step_of_host_nil {s : State} (h : s.host = []) : step s = .next s.takeSample := by
  simp only [step, h]

theorem step_of_host_cons {s : State} {p : PortSample} {rest : List PortSample} (h : s.host = p :: rest) :
    step s = serve p s.takeSample := by
  simp only [step, h]

/-! ### The state words (R27, R28) -/

theorem takeFault_agree (e : ErrCode) {s s' : State} (h : s.AgreeButWords s') :
    (takeFault e s).AgreeButWords (takeFault e s') := by
  obtain ⟨_, _, _, hparams, hhost, _, _⟩ := h
  exact ⟨rfl, rfl, rfl, hparams, hhost, by simp, by simp⟩

theorem resetEvent_agree {s s' : State} (h : s.AgreeButWords s') : (resetEvent s).AgreeButWords (resetEvent s') := by
  obtain ⟨_, _, _, hparams, hhost, _, _⟩ := h
  exact ⟨rfl, rfl, rfl, hparams, hhost, by simp, by simp⟩

theorem takeSample_agree {s s' : State} (h : s.AgreeButWords s') : s.takeSample.AgreeButWords s'.takeSample := by
  obtain ⟨hphase, hdvalid, herr, hparams, hhost, hlen, hdigest⟩ := h
  exact ⟨hphase, hdvalid, herr, hparams, congrArg List.tail hhost, hlen, hdigest⟩

/-- Every command but FIN writes, beside the state words, what does not depend on them. -/
theorem effectOf_agree {i : Instr} {s s' : State} {next : Phase} (h : s.AgreeButWords s')
    (hgo : phaseTable s.phase (commandOf i) = .go next) (hi : i ≠ .fin) :
    State.AgreeButWords { effectOf i s with phase := next } { effectOf i s' with phase := next } := by
  obtain ⟨_, hdvalid, herr, hparams, hhost, hlen, hdigest⟩ := h
  cases i with
  | init k0 k1 => exact ⟨rfl, rfl, herr, hparams, hhost, fun _ => rfl, by simp [effectOf]⟩
  | block m =>
    obtain ⟨hp, _⟩ := phaseTable_block_go hgo
    exact ⟨rfl, hdvalid, herr, hparams, hhost, fun _ => congrArg (· + 8) (hlen (.inl hp)), hdigest⟩
  | last remaining =>
    obtain ⟨hp, _⟩ := phaseTable_last_go hgo
    exact ⟨rfl, hdvalid, herr, hparams, hhost, fun _ => hlen (.inl hp), hdigest⟩
  | fin => exact absurd rfl hi

/-- FIN in PADDED apart, an accepted word leaves two such states again. -/
theorem accept_agree {cw : CommandWord} {s s' t t' : State} (h : s.AgreeButWords s')
    (hfin : ¬(s.phase = .padded ∧ decode cw = .command .fin)) (ht : accept cw s = .next t) (ht' : accept cw s' = .next t') :
    t.AgreeButWords t' := by
  have hphase : s.phase = s'.phase := h.1
  rcases accept_cases cw s with ⟨hp, ha⟩ | ⟨hlive, ⟨why, hd⟩, ha⟩ | ⟨hlive, i, hd, hwf, ha⟩ <;>
    cases ha.symm.trans ht
  · cases (accept_in_fault cw (hphase ▸ hp)).symm.trans ht'
    exact h
  · cases (accept_of_illegal (hphase ▸ hlive) hd).symm.trans ht'
    exact takeFault_agree .illegalCommand h
  · rw [accept_of_command (hphase ▸ hlive) hd, exec_of_wf hwf] at ht'
    cases ht'
    rcases sequenced_cases (commandOf i) (effectOf i) s with ⟨next, hgo, hs⟩ | ⟨hseq, hs⟩ | ⟨hdrop, hs⟩
    · rw [hs, sequenced_go _ (hphase ▸ hgo)]
      refine effectOf_agree h hgo fun hi => hfin ?_
      subst hi
      exact ⟨(phaseTable_fin_go hgo).1, hd⟩
    · rw [hs, sequenced_seq _ (hphase ▸ hseq)]
      exact takeFault_agree .sequenceFault h
    · rw [hs, sequenced_drop _ (hphase ▸ hdrop)]
      exact h

theorem statusPort_of_agree {s s' : State} (h : s.AgreeButWords s') : s.statusPort = s'.statusPort := by
  obtain ⟨hphase, hdvalid, herr, _⟩ := h
  exact statusPort_congr hphase hdvalid herr

theorem digestPort_of_agree {s s' : State} (h : s.AgreeButWords s') (hvalid : s.dvalid = true) :
    s.digestPort = s'.digestPort := by
  obtain ⟨_, hdvalid, _, _, _, _, hdigest⟩ := h
  rw [digestPort_of_valid hvalid, digestPort_of_valid (hdvalid ▸ hvalid), hdigest hvalid]

/-- FIN squeezes the words into DIGEST, and writes the status without them. -/
theorem statusPort_of_accept_fin {cw : CommandWord} {s s' t t' : State} (h : s.AgreeButWords s') (hp : s.phase = .padded)
    (hd : decode cw = .command .fin) (ht : accept cw s = .next t) (ht' : accept cw s' = .next t') :
    t.statusPort = t'.statusPort := by
  obtain ⟨hphase, _, herr, _⟩ := h
  have hp' : s'.phase = .padded := hphase ▸ hp
  rw [accept_of_command (by simp [hp]) hd, exec_fin hp] at ht
  rw [accept_of_command (by simp [hp']) hd, exec_fin hp'] at ht'
  cases ht
  cases ht'
  exact statusPort_congr rfl rfl herr

theorem step_agree {s s' t t' : State} (h : s.AgreeButWords s') (ht : step s = .next t) (ht' : step s' = .next t') :
    t.AgreeButWords t' ∨
      (t.statusPort = t'.statusPort ∧ s.phase = .padded ∧
        ∃ p rest, s.host = p :: rest ∧ p.rst = false ∧ p.cmdValid = true ∧ decode p.cmd = .command .fin) := by
  have hsample := takeSample_agree h
  obtain ⟨_, _, _, _, hhost, _⟩ := h
  cases hh : s.host with
  | nil =>
    cases (step_of_host_nil hh).symm.trans ht
    cases (step_of_host_nil (hhost ▸ hh)).symm.trans ht'
    exact .inl hsample
  | cons p rest =>
    rw [step_of_host_cons hh] at ht
    rw [step_of_host_cons (hhost ▸ hh)] at ht'
    cases hrst : p.rst with
    | true =>
      cases (serve_of_rst hrst _).symm.trans ht
      cases (serve_of_rst hrst _).symm.trans ht'
      exact .inl (resetEvent_agree hsample)
    | false =>
      cases hvalid : p.cmdValid with
      | false =>
        cases (serve_of_idle hrst hvalid _).symm.trans ht
        cases (serve_of_idle hrst hvalid _).symm.trans ht'
        exact .inl hsample
      | true =>
        rw [serve_of_command hrst hvalid] at ht ht'
        by_cases hfin : s.phase = .padded ∧ decode p.cmd = .command .fin
        · obtain ⟨hp, hd⟩ := hfin
          exact .inr ⟨statusPort_of_accept_fin hsample hp hd ht ht', hp, p, rest, rfl, hrst, hvalid, hd⟩
        · exact .inl (accept_agree hsample hfin ht ht')

end Sys2Proof.Machine

namespace Sys2Proof.Proofs
open Sys2Proof.Machine

/-- Settles O16: `serve` neither reads nor writes the samples behind the one it takes. -/
theorem laterSamplesHaveNoEffect : Obligations.LaterSamplesHaveNoEffect := by
  intro s t p rest rest' h
  rw [step_of_host_cons rfl] at h ⊢
  exact serve_withHost rest' h

/-- Settles O39: a command that does not fault executed, and each effect writes what its rule names. -/
theorem framesOfCommands : Obligations.FramesOfCommands := by
  intro i s t h hlive
  obtain ⟨next, _, rfl⟩ := go_of_exec_live h hlive
  obtain ⟨hparams, hhost, hdraws, herr⟩ := effectOf_frame i s
  refine ⟨hparams, hhost, hdraws, herr, ?_⟩
  cases i with
  | init => trivial
  | block => exact ⟨rfl, rfl⟩
  | last => exact ⟨rfl, rfl, rfl⟩
  | fin => rfl

/-- Settles O44: a step is FIN in PADDED, which writes the status without the words, or leaves two states that agree again,
and so on the ports. -/
theorem stateWordsDoNotEscape : Obligations.StateWordsDoNotEscape := by
  intro s s' t t' h ht ht'
  rcases step_agree h ht ht' with hagree | ⟨hstatus, hfin⟩
  · exact ⟨statusPort_of_agree hagree, rfl, .inl ⟨hagree, digestPort_of_agree hagree⟩⟩
  · exact ⟨hstatus, rfl, .inr hfin⟩

end Sys2Proof.Proofs

/-! PROOFS. The round of spec/41_sipround.md: its closed form, its two layers (R92) and its inverse (R94); the rounds as
micro-steps (spec/10_state.md R29); and the pattern INIT leaves in the words (spec/40_key_and_init.md section 3). -/

namespace Sys2Proof.Machine

/-! ### The lines of the round undone (R94) -/

/-- A rotation is undone by the rotation that completes it to 64: each bit comes back to its place. -/
theorem rotl64_rotl64 (x : Word) {r r' : Nat} (hr : 0 < r) (hr' : 0 < r') (h : r + r' = 64) :
    rotl64 (rotl64 x r) r' = x := by
  apply BitVec.eq_of_getLsbD_eq
  intro j hj
  have hback : ((j + r) % 64 + r') % 64 = j := by omega
  calc (rotl64 (rotl64 x r) r').getLsbD j
      = (rotl64 (rotl64 x r) r').getLsbD (((j + r) % 64 + r') % 64) := by rw [hback]
    _ = (rotl64 x r).getLsbD ((j + r) % 64) := rotl64_getLsbD_add_mod _ (by omega) (Nat.mod_lt _ (by norm_num))
    _ = x.getLsbD j := rotl64_getLsbD_add_mod x (by omega) hj

@[simp] theorem add64_sub_right (a b : Word) : add64 a b - b = a :=
  add_sub_cancel_right a b

@[simp] theorem add64_of_sub (a b : Word) : add64 (a - b) b = a :=
  sub_add_cancel a b

/-- Each line of the inverse meets the line of the round it undoes. -/
theorem sipRoundInverse_sipRound (w : Words) : sipRoundInverse (sipRound w) = w := by
  simp [sipRoundInverse, sipRound, rotl64_rotl64]

theorem sipRound_sipRoundInverse (w : Words) : sipRound (sipRoundInverse w) = w := by
  simp [sipRoundInverse, sipRound, rotl64_rotl64]

/-! ### The rounds as micro-steps (R29) -/

/-- Micro-steps run the rounds that RC has left, and nothing once it has reached the limit. -/
theorem run_words {limit k : Nat} {h : Hidden} (hk : limit - h.rc ≤ k) :
    (Hidden.run limit k h).words = sipRounds (limit - h.rc) h.words := by
  induction k generalizing h with
  | zero =>
    have hdone : limit - h.rc = 0 := by omega
    rw [hdone]
    rfl
  | succ k ih =>
    rw [Hidden.run]
    by_cases hlt : h.rc < limit
    · have htick : h.tick limit = { h with words := sipRound h.words, rc := h.rc + 1 } := if_pos hlt
      have hleft : limit - h.rc = limit - (h.rc + 1) + 1 := by omega
      have hrest : limit - (h.rc + 1) ≤ k := by omega
      rw [htick, hleft, sipRounds_succ]
      exact ih hrest
    · have htick : h.tick limit = h := if_neg hlt
      rw [htick]
      exact ih (by omega)

theorem microAbsorb_eq_absorb {c ticks : Nat} (h : c ≤ ticks) (w : Words) (buf : List Byte) :
    microAbsorb c ticks w buf = absorb c w (le64 buf) := by
  have hrun (w : Words) : (Hidden.run c ticks (Hidden.start w buf)).words = sipRounds c w :=
    run_words (h := Hidden.start w buf) h
  simp only [microAbsorb, absorb, hrun]

/-! ### The pattern of the state words (R81) -/

theorem initWords_injective {k0 k1 k0' k1' : Word} (h : initWords k0 k1 = initWords k0' k1') : k0 = k0' ∧ k1 = k1' := by
  obtain ⟨h0, h1, _, _⟩ := Words.mk.inj h
  exact ⟨(BitVec.xor_left_inj _).mp h0, (BitVec.xor_left_inj _).mp h1⟩

/-- The key word that two state words share cancels. -/
theorem xor_key_cancel (k a b : Word) : (k ^^^ a) ^^^ (k ^^^ b) = a ^^^ b := by
  rw [BitVec.xor_comm k a, BitVec.xor_assoc, xor_cancel_left]

end Sys2Proof.Machine

namespace Sys2Proof.Proofs
open Sys2Proof.Machine

/-- Settles O25: k0 stands in v0 and k1 in v1, each under a constant; of two words of one key the constants remain. -/
theorem initPatternOfStateWords : Obligations.InitPatternOfStateWords := by
  refine ⟨fun _ _ _ _ => initWords_injective, fun k0 k1 s t hlive ht => ?_⟩
  cases (exec_init k0 k1 hlive).symm.trans ht
  exact ⟨(xor_key_cancel k0 iv0 iv2).trans (by decide), (xor_key_cancel k1 iv1 iv3).trans (by decide)⟩

/-- Settles O29: the formula of R10 is the library's rotation at each of the six amounts. -/
theorem sipRoundClosedForm : Obligations.SipRoundClosedForm := by
  intro a b c d
  simp (disch := decide) only [sipRound, add64, rotl64_eq_rotateLeft]

/-- Settles O30: both schedules perform the same operations on the same values. -/
theorem layeredScheduleComputesRound : Obligations.LayeredScheduleComputesRound := fun _ => rfl

/-- Settles O31: every line of the round is undone by the line that meets it, in either order. -/
theorem sipRoundIsBijective : Obligations.SipRoundIsBijective :=
  ⟨sipRoundInverse_sipRound, sipRound_sipRoundInverse, by decide⟩

/-- Settles O36: with RC at 0, `C` micro-steps run `C` rounds, and later ones change nothing. -/
theorem microStepsReachAbsorb : Obligations.MicroStepsReachAbsorb := fun _ _ w buf h =>
  microAbsorb_eq_absorb h w buf

end Sys2Proof.Proofs

/-! PROOFS. Runs over a host's commands: BLOCKs and LEN (spec/42_compression.md R101), the transaction and the function it
computes (spec/44_facade.md R126, R127, R128). -/

namespace Sys2Proof.Machine

/-! ### Runs -/

theorem run_add {j : Nat} (k : Nat) {s t : State} (h : Host.Core.run core j s = .next t) :
    Host.Core.run core (j + k) s = Host.Core.run core k t := by
  induction j generalizing s with
  | zero =>
    cases h
    rw [Nat.zero_add]
  | succ j ih =>
    obtain ⟨u, hu, _⟩ := exists_step s
    rw [run_succ hu] at h
    rw [Nat.add_right_comm, run_succ hu]
    exact ih h

theorem exists_run (k : Nat) (s : State) : ∃ t : State, Host.Core.run core k s = .next t := by
  induction k generalizing s with
  | zero => exact ⟨s, rfl⟩
  | succ k ih =>
    obtain ⟨u, hu, _⟩ := exists_step s
    rw [run_succ hu]
    exact ih u

/-- A run takes one sample a step. -/
theorem run_host {k : Nat} {s t : State} (h : Host.Core.run core k s = .next t) : t.host = s.host.drop k := by
  induction k generalizing s with
  | zero =>
    cases h
    rfl
  | succ k ih =>
    obtain ⟨u, hu, _⟩ := exists_step s
    rw [run_succ hu] at h
    rw [ih h, step_host hu, List.drop_tail]

/-! ### Commands issued in their canonical encoding -/

theorem step_of_issued {s : State} {i : Instr} {rest : List PortSample} (hlive : s.phase ≠ .fault) (hwf : i.wf = true)
    (hh : s.host = PortSample.offer (encode i) :: rest) :
    step s = exec i { s with host := rest, draws := s.draws + 1 } :=
  step_of_command hh hlive (decode_encode hwf)

/-- The words after a list of blocks absorbed in order. -/
def absorbWords (c : Nat) (w : Words) (blocks : List Word) : Words := blocks.foldl (absorb c) w

/-- The state in ABSORB after the BLOCK commands of `blocks`, with `rest` still to come. -/
def afterBlocks (blocks : List Word) (rest : List PortSample) (s : State) : State :=
  { s with
    v := absorbWords s.params.c s.v blocks
    len := s.len + BitVec.ofNat 8 (8 * blocks.length)
    host := rest
    draws := s.draws + blocks.length }

/-- A block's eight bytes and those of the blocks after it, counted modulo 256. -/
theorem add_eight_add (len : Byte) (n : Nat) : len + 8 + BitVec.ofNat 8 (8 * n) = len + BitVec.ofNat 8 (8 * (n + 1)) := by
  rw [BitVec.add_assoc, Nat.mul_succ, Nat.add_comm, BitVec.ofNat_add]
  rfl

theorem run_blocks {s : State} {blocks : List Word} {rest : List PortSample} (hp : s.phase = .absorb)
    (hh : s.host = issue (blocks.map Instr.block) ++ rest) :
    Host.Core.run core blocks.length s = .next (afterBlocks blocks rest s) := by
  induction blocks generalizing s with
  | nil =>
    obtain rfl : s.host = rest := hh
    simp [afterBlocks, absorbWords, Host.Core.run]
  | cons m blocks ih =>
    have hlive : s.phase ≠ .fault := by simp [hp]
    have hstep := (step_of_issued hlive rfl hh).trans (exec_block m hp)
    rw [List.length_cons, run_succ hstep, ih rfl rfl]
    simp only [afterBlocks, absorbWords, List.foldl_cons, List.length_cons, add_eight_add, Nat.add_assoc,
      Nat.add_comm 1, hp]

/-- The state after INIT and the BLOCK commands of `blocks`, with `rest` still to come. -/
def afterInitBlocks (k0 k1 : Word) (blocks : List Word) (rest : List PortSample) (s : State) : State :=
  afterBlocks blocks rest { initEffect k0 k1 { s with draws := s.draws + 1 } with phase := .absorb }

theorem run_init_blocks {s : State} {k0 k1 : Word} {blocks : List Word} {rest : List PortSample}
    (hlive : s.phase ≠ .fault) (hh : s.host = issue (.init k0 k1 :: blocks.map Instr.block) ++ rest) :
    Host.Core.run core (blocks.length + 1) s = .next (afterInitBlocks k0 k1 blocks rest s) := by
  have hstep := (step_of_issued hlive rfl hh).trans (exec_init k0 k1 hlive)
  rw [run_succ hstep, run_blocks rfl rfl]
  rfl

/-- LEN after INIT and the blocks: eight for each, modulo 256. -/
theorem afterInitBlocks_len (k0 k1 : Word) (blocks : List Word) (rest : List PortSample) (s : State) :
    (afterInitBlocks k0 k1 blocks rest s).len = BitVec.ofNat 8 (8 * blocks.length) :=
  BitVec.zero_add _

/-! ### A whole stream (R125) -/

/-- The words a stream leaves for FIN to squeeze: the key's pattern, the blocks, the padded block with the length byte. -/
def streamWords (c : Nat) (k0 k1 : Word) (blocks : List Word) (remaining : List Byte) : Words :=
  absorb c (absorbWords c (initWords k0 k1) blocks) (lastWord (BitVec.ofNat 8 (8 * blocks.length)) remaining)

/-- The state in DONE after a stream, with `rest` still to come. -/
def afterStream (k0 k1 : Word) (blocks : List Word) (remaining : List Byte) (rest : List PortSample) (s : State) : State :=
  { s with
    v := (finalize s.params (streamWords s.params.c k0 k1 blocks remaining)).1
    len := BitVec.ofNat 8 (8 * blocks.length)
    phase := .done
    dvalid := true
    digest := (finalize s.params (streamWords s.params.c k0 k1 blocks remaining)).2
    host := rest
    draws := s.draws + 1 + blocks.length + 2 }

theorem run_last_fin {s : State} {remaining : List Byte} {rest : List PortSample} (hp : s.phase = .absorb)
    (hlen : remaining.length ≤ 7)
    (hh : s.host = PortSample.offer (encode (.last remaining)) :: PortSample.offer (encode .fin) :: rest) :
    Host.Core.run core 2 s =
      .next { s with
        v := (finalize s.params (absorb s.params.c s.v (lastWord s.len remaining))).1
        phase := .done
        dvalid := true
        digest := (finalize s.params (absorb s.params.c s.v (lastWord s.len remaining))).2
        host := rest
        draws := s.draws + 2 } := by
  have hlive : s.phase ≠ .fault := by simp [hp]
  have hlast := (step_of_issued hlive ((wf_last_iff _).mpr hlen) hh).trans (exec_last hlen hp)
  rw [run_succ hlast, run_succ ((step_of_issued Phase.noConfusion rfl rfl).trans (exec_fin rfl))]
  rfl

theorem issue_stream (k0 k1 : Word) (blocks : List Word) (remaining : List Byte) (rest : List PortSample) :
    issue (stream k0 k1 blocks remaining) ++ rest =
      issue (.init k0 k1 :: blocks.map Instr.block) ++
        (PortSample.offer (encode (.last remaining)) :: PortSample.offer (encode .fin) :: rest) := by
  simp [stream, issue]

theorem run_stream {s : State} {k0 k1 : Word} {blocks : List Word} {remaining : List Byte} {rest : List PortSample}
    (hlive : s.phase ≠ .fault) (hlen : remaining.length ≤ 7)
    (hh : s.host = issue (stream k0 k1 blocks remaining) ++ rest) :
    Host.Core.run core (blocks.length + 3) s = .next (afterStream k0 k1 blocks remaining rest s) := by
  rw [issue_stream] at hh
  have hblocks := run_init_blocks hlive hh
  rw [show blocks.length + 3 = blocks.length + 1 + 2 from rfl, run_add 2 hblocks, run_last_fin rfl hlen rfl,
    afterInitBlocks_len]
  rfl

/-! ### FAULT under issued commands (R145) -/

theorem run_in_fault {s : State} {commands : List Instr} {rest : List PortSample} (hp : s.phase = .fault)
    (hh : s.host = issue commands ++ rest) :
    Host.Core.run core commands.length s = .next { s with host := rest, draws := s.draws + commands.length } := by
  induction commands generalizing s with
  | nil =>
    obtain rfl : s.host = rest := hh
    rfl
  | cons i commands ih =>
    have hnext : s.host = PortSample.offer (encode i) :: (issue commands ++ rest) := hh
    rw [List.length_cons, run_succ (step_in_fault hnext hp),
      ih (s := { s with host := issue commands ++ rest, draws := s.draws + 1 }) hp rfl]
    simp only [Nat.add_assoc, Nat.add_comm 1]

theorem issue_drop (k : Nat) (commands : List Instr) : issue (commands.drop k) = (issue commands).drop k :=
  List.map_drop

/-- Issued commands that end outside FAULT never were in it, since from FAULT they would have been dropped. -/
theorem safeRun_of_live {s t : State} {commands : List Instr} {rest : List PortSample}
    (hh : s.host = issue commands ++ rest) (hrun : Host.Core.run core commands.length s = .next t) (ht : t.Live) :
    SafeRun commands.length s := by
  intro j hj
  obtain ⟨u, hu⟩ := exists_run j s
  refine ⟨u, hu, fun hfault => ht ?_⟩
  have hhost : u.host = issue (commands.drop j) ++ rest := by
    rw [run_host hu, hh, issue_drop, List.drop_append_of_le_length (by simpa [issue] using hj)]
  have hdropped := run_in_fault hfault hhost
  have hsplit : commands.length = j + (commands.drop j).length := by rw [List.length_drop]; omega
  rw [hsplit, run_add _ hu, hdropped] at hrun
  cases hrun
  exact hfault

/-! ### The function computed (R126) -/

theorem digestOf_eq_finalize (p : Params) (w : Words) : digestOf p.width p.d w = (finalize p w).2 := by
  unfold digestOf finalize
  cases p.width <;> rfl

/-- LEN after the full blocks and the count of the tail make up the length of the message. -/
theorem paddedBuffer_messageTail (msg : List Byte) :
    paddedBuffer (BitVec.ofNat 8 (8 * (msg.length / 8))) (messageTail msg) =
      messageTail msg ++ List.replicate (7 - (messageTail msg).length) 0 ++ [BitVec.ofNat 8 msg.length] := by
  have hlength : 8 * (msg.length / 8) + msg.length % 8 = msg.length := Nat.div_add_mod _ _
  rw [paddedBuffer, lengthByte, ← BitVec.ofNat_add, messageTail_length, hlength]

theorem absorbMessage_eq_streamWords (c : Nat) (k0 k1 : Word) (msg : List Byte) :
    absorbMessage c (initWords k0 k1) msg = streamWords c k0 k1 (messageWords msg) (messageTail msg) := by
  rw [streamWords, lastWord, messageWords_length, paddedBuffer_messageTail, absorbWords, messageWords, List.foldl_map]
  rfl

theorem finalize_streamWords (p : Params) (k0 k1 : Word) (msg : List Byte) :
    (finalize p (streamWords p.c k0 k1 (messageWords msg) (messageTail msg))).2 = sipHash p k0 k1 msg := by
  rw [← absorbMessage_eq_streamWords, ← digestOf_eq_finalize]
  rfl

/-! ### The transaction of a message -/

/-- The state in DONE after the transaction of `msg`, with `rest` still to come. -/
def afterTransaction (k0 k1 : Word) (msg : List Byte) (rest : List PortSample) (s : State) : State :=
  afterStream k0 k1 (messageWords msg) (messageTail msg) rest s

theorem afterTransaction_v (k0 k1 : Word) (msg : List Byte) (rest : List PortSample) (s : State) :
    (afterTransaction k0 k1 msg rest s).v =
      (finalize s.params (streamWords s.params.c k0 k1 (messageWords msg) (messageTail msg))).1 := rfl

theorem afterTransaction_digest (k0 k1 : Word) (msg : List Byte) (rest : List PortSample) (s : State) :
    (afterTransaction k0 k1 msg rest s).digest = sipHash s.params k0 k1 msg :=
  finalize_streamWords s.params k0 k1 msg

theorem afterTransaction_digestPort (k0 k1 : Word) (msg : List Byte) (rest : List PortSample) (s : State) :
    (afterTransaction k0 k1 msg rest s).digestPort = sipHash s.params k0 k1 msg :=
  (digestPort_of_valid rfl).trans (afterTransaction_digest k0 k1 msg rest s)

theorem run_transaction {s : State} {k0 k1 : Word} {msg : List Byte} {rest : List PortSample} (hlive : s.phase ≠ .fault)
    (hh : s.host = issue (transaction k0 k1 msg) ++ rest) :
    Host.Core.run core (transaction k0 k1 msg).length s = .next (afterTransaction k0 k1 msg rest s) := by
  have htail : (messageTail msg).length ≤ 7 := by rw [messageTail_length]; omega
  rw [transaction, stream_length]
  exact run_stream hlive htail hh

/-! ### The message a stream spells (R126) -/

theorem toNat_setWidth_word (m : Word) : (m.setWidth 128).toNat = m.toNat :=
  BitVec.toNat_setWidth_of_le (by decide)

theorem wordBytes_eq_remainingBytes (m : Word) : wordBytes m = remainingBytes (m.setWidth 128) 8 := by
  refine List.map_congr_left fun j _ => BitVec.eq_of_toNat_eq ?_
  rw [byteLane, BitVec.extractLsb'_toNat, BitVec.extractLsb'_toNat, toNat_setWidth_word]

/-- A word is the little-endian load of its bytes. -/
theorem le64_wordBytes (m : Word) : le64 (wordBytes m) = m := by
  apply BitVec.eq_of_toNat_eq
  rw [le64_toNat (wordBytes_length m).le, wordBytes_eq_remainingBytes, littleEndian_remainingBytes, toNat_setWidth_word]
  exact Nat.mod_eq_of_lt m.isLt

theorem messageBlock_append_zero {bytes : List Byte} (h : bytes.length = 8) (msg : List Byte) :
    messageBlock (bytes ++ msg) 0 = bytes := by
  rw [messageBlock, Nat.mul_zero, List.drop_zero, ← h, List.take_left]

theorem messageBlock_append_succ {bytes : List Byte} (h : bytes.length = 8) (msg : List Byte) (q : Nat) :
    messageBlock (bytes ++ msg) (q + 1) = messageBlock msg q := by
  rw [messageBlock, messageBlock, Nat.mul_succ, Nat.add_comm, ← h, List.drop_length_add_append]

theorem length_append_div_eight {bytes : List Byte} (h : bytes.length = 8) (msg : List Byte) :
    (bytes ++ msg).length / 8 = msg.length / 8 + 1 := by
  rw [List.length_append, h]
  omega

theorem messageWords_append {bytes : List Byte} (h : bytes.length = 8) (msg : List Byte) :
    messageWords (bytes ++ msg) = le64 bytes :: messageWords msg := by
  rw [messageWords, length_append_div_eight h, List.range_succ_eq_map, List.map_cons, List.map_map,
    messageBlock_append_zero h, messageWords]
  simp only [Function.comp_def, messageBlock_append_succ h]

theorem messageTail_append {bytes : List Byte} (h : bytes.length = 8) (msg : List Byte) :
    messageTail (bytes ++ msg) = messageTail msg := by
  rw [messageTail, length_append_div_eight h, messageTail, Nat.mul_succ, Nat.add_comm, ← h, List.drop_length_add_append]

theorem spelledMessage_cons (m : Word) (blocks : List Word) (remaining : List Byte) :
    spelledMessage (m :: blocks) remaining = wordBytes m ++ spelledMessage blocks remaining := by
  simp [spelledMessage]

theorem messageWords_spelledMessage (blocks : List Word) {remaining : List Byte} (h : remaining.length ≤ 7) :
    messageWords (spelledMessage blocks remaining) = blocks := by
  induction blocks with
  | nil =>
    have hnone : remaining.length / 8 = 0 := by omega
    simp [spelledMessage, messageWords, hnone]
  | cons m blocks ih => rw [spelledMessage_cons, messageWords_append (wordBytes_length m), le64_wordBytes, ih]

theorem messageTail_spelledMessage (blocks : List Word) {remaining : List Byte} (h : remaining.length ≤ 7) :
    messageTail (spelledMessage blocks remaining) = remaining := by
  induction blocks with
  | nil =>
    have hnone : remaining.length / 8 = 0 := by omega
    simp [spelledMessage, messageTail, hnone]
  | cons m blocks ih => rw [spelledMessage_cons, messageTail_append (wordBytes_length m), ih]

/-- A stream is the transaction of the message it spells. -/
theorem stream_eq_transaction (k0 k1 : Word) (blocks : List Word) {remaining : List Byte} (h : remaining.length ≤ 7) :
    stream k0 k1 blocks remaining = transaction k0 k1 (spelledMessage blocks remaining) := by
  rw [transaction, messageWords_spelledMessage blocks h, messageTail_spelledMessage blocks h]

end Sys2Proof.Machine

namespace Sys2Proof.Proofs
open Sys2Proof.Machine

/-- Settles O35: INIT sets LEN to 0, and each BLOCK adds 8. -/
theorem lengthCountsBytes : Obligations.LengthCountsBytes := by
  intro s k0 k1 blocks rest hlive hh
  refine ⟨_, run_init_blocks hlive hh, ?_, rfl, rfl⟩
  rw [afterInitBlocks_len, BitVec.toNat_ofNat]

/-- Settles O45: the run of the transaction, and what FIN squeezes out of the words it leaves. -/
theorem transactionComputesSipHash : Obligations.TransactionComputesSipHash := by
  intro s k0 k1 msg rest hlive hh
  exact ⟨_, run_transaction hlive hh, rfl, rfl, rfl, rfl, afterTransaction_digest k0 k1 msg rest s,
    afterTransaction_digestPort k0 k1 msg rest s⟩

/-- Settles O46: the stream is the transaction of the message it spells. -/
theorem streamHashesMessageItSpells : Obligations.StreamHashesMessageItSpells := by
  intro s k0 k1 blocks remaining rest hlive hlen hh
  rw [← stream_length k0 k1 blocks remaining]
  rw [stream_eq_transaction k0 k1 blocks hlen] at hh ⊢
  exact ⟨_, run_transaction hlive hh, rfl, rfl, afterTransaction_digest k0 k1 _ rest s⟩

/-- Settles O47: the transaction ends in DONE, and from FAULT no command leads there. -/
theorem transactionNeverFaults : Obligations.TransactionNeverFaults := by
  intro s k0 k1 msg rest hlive hh
  exact safeRun_of_live hh (run_transaction hlive hh) Phase.noConfusion

/-- Settles O48: of the state before, what a transaction leaves reads the parameters alone. -/
theorem digestIndependentOfHistory : Obligations.DigestIndependentOfHistory := by
  intro s s' t t' k0 k1 msg rest rest' hlive hlive' hparams hh hh' ht ht'
  cases (run_transaction hlive hh).symm.trans ht
  cases (run_transaction hlive' hh').symm.trans ht'
  refine ⟨?_, rfl, rfl, rfl, ?_, ?_⟩
  · rw [afterTransaction_v, afterTransaction_v, hparams]
  · rw [afterTransaction_digest, afterTransaction_digest, hparams]
  · rw [afterTransaction_digestPort, afterTransaction_digestPort, hparams]

end Sys2Proof.Proofs

/-! PROOFS. The host of spec/44_facade.md: the four shapes of one key (R124) and the facade (R125). -/

namespace Sys2Proof.Machine

/-! ### One key in four shapes (R124) -/

/-- Sixteen key bytes decode to the halves of the number they spell. -/
theorem keyOfBytes_eq_halves {bytes : List Byte} (h : bytes.length = 16) :
    keyOfBytes bytes =
      .key (lowWord (BitVec.ofNat 128 (littleEndian bytes))) (highWord (BitVec.ofNat 128 (littleEndian bytes))) := by
  have hlo : (bytes.take 8).length = 8 := by rw [List.length_take]; omega
  have hdrop : (bytes.drop 8).length = 8 := by rw [List.length_drop]; omega
  have hhi : (bytes.drop 8).take 8 = bytes.drop 8 := List.take_of_length_le hdrop.le
  have hall : BitVec.ofNat 128 (littleEndian bytes) = le64 (bytes.drop 8) ++ le64 (bytes.take 8) := by
    rw [le64_append_le64 hlo hdrop.le, List.take_append_drop]
  rw [hall, lowWord_append, highWord_append, keyOfBytes, hhi]

/-- The array of an integer's bytes spells the integer. -/
theorem littleEndian_of_lanes {x : BitVec 128} {b : Vector Byte 16} (h : ∀ j (hj : j < 16), b[j] = x.extractLsb' (8 * j) 8) :
    BitVec.ofNat 128 (littleEndian b.toList) = x := by
  have hlanes : b.toList = remainingBytes x 16 := by
    apply List.ext_getElem
    · rw [Vector.length_toList, remainingBytes_length]
    · intro j hj _
      rw [Vector.length_toList] at hj
      rw [Vector.getElem_toList, remainingBytes_getElem]
      exact h j hj
  apply BitVec.eq_of_toNat_eq
  rw [hlanes, littleEndian_remainingBytes, Nat.mod_eq_of_lt x.isLt, BitVec.toNat_ofNat, Nat.mod_eq_of_lt x.isLt]

theorem normalizeKey_byteArray_of_lanes {x : BitVec 128} {b : Vector Byte 16}
    (h : ∀ j (hj : j < 16), b[j] = x.extractLsb' (8 * j) 8) :
    normalizeKey (.byteArray b) = normalizeKey (.integer x) := by
  rw [normalizeKey, keyOfBytes_eq_halves b.length_toList, littleEndian_of_lanes h]
  rfl

/-! ### The facade (R125) -/

/-- The engine as the host begins to drive the transaction. -/
def driven (k0 k1 : Word) (msg : List Byte) (s : State) : State := { s with host := issue (transaction k0 k1 msg) }

theorem driven_host (k0 k1 : Word) (msg : List Byte) (s : State) :
    (driven k0 k1 msg s).host = issue (transaction k0 k1 msg) ++ [] := (List.append_nil _).symm

theorem hashMessage_of_run {k0 k1 : Word} {msg : List Byte} {s t : State} (polls : Nat)
    (h : Host.Core.run core (transaction k0 k1 msg).length (driven k0 k1 msg s) = .next t) :
    hashMessage polls k0 k1 msg s = awaitDigest polls t := by
  rw [driven] at h
  simp only [hashMessage, h]

theorem hashMessage_of_live (polls : Nat) (k0 k1 : Word) (msg : List Byte) {s : State} (hlive : s.phase ≠ .fault) :
    hashMessage polls k0 k1 msg s =
      (.digest (sipHash s.params k0 k1 msg), afterTransaction k0 k1 msg [] (driven k0 k1 msg s)) := by
  rw [hashMessage_of_run polls (run_transaction hlive (driven_host k0 k1 msg s)), awaitDigest_of_valid polls rfl,
    afterTransaction_digestPort]
  rfl

/-- In FAULT the commands are dropped, DVALID stays 0, and the host waits (notes/assumptions/16.md). -/
theorem hashMessage_in_fault (polls : Nat) (k0 k1 : Word) (msg : List Byte) {s : State} (hp : s.phase = .fault)
    (hvalid : s.dvalid = false) : (hashMessage polls k0 k1 msg s).1 = .waiting := by
  rw [hashMessage_of_run polls (run_in_fault hp (driven_host k0 k1 msg s))]
  exact awaitDigest_of_idle polls hvalid rfl

theorem digestFor_of_key {key : KeyMaterial} {k0 k1 : Word} (p : Params) (msg : List Byte)
    (h : normalizeKey key = .key k0 k1) : digestFor p key msg = .digest (sipHash p k0 k1 msg) := by
  rw [digestFor, facade_of_key 0 msg _ h, hashMessage_of_live 0 k0 k1 msg Phase.noConfusion]
  rfl

theorem digestFor_of_keyTooShort {key : KeyMaterial} (p : Params) (msg : List Byte) (h : normalizeKey key = .keyTooShort) :
    digestFor p key msg = .keyTooShort := by
  rw [digestFor, facade_of_keyTooShort 0 msg _ h]

end Sys2Proof.Machine

namespace Sys2Proof.Proofs
open Sys2Proof.Machine

/-- Settles O50: the bytes spell the integer, whose halves are the key words; a slice that begins with them decodes as the
array. -/
theorem keyShapesAgree : Obligations.KeyShapesAgree := by
  intro x b more h
  have harray := normalizeKey_byteArray_of_lanes h
  obtain ⟨_, hslice⟩ := shortKeyIssuesNothing
  exact ⟨harray, (hslice b more).trans harray, rfl⟩

/-- Settles O52: outside FAULT the first look finds the transaction's digest; in FAULT no poll finds one. -/
theorem facadeReturnsDigestOrKeyTooShort : Obligations.FacadeReturnsDigestOrKeyTooShort := by
  refine ⟨fun polls key msg s => ⟨fun k0 k1 hkey hlive => ?_, facade_of_keyTooShort polls msg s,
    fun k0 k1 hkey hp hinv => ?_⟩, fun p key msg => ?_⟩
  · rw [facade_of_key polls msg s hkey, hashMessage_of_live polls k0 k1 msg hlive]
    exact ⟨_, rfl, rfl, rfl, afterTransaction_digestPort k0 k1 msg [] _, rfl⟩
  · obtain ⟨hvalid, _⟩ := hinv
    rw [facade_of_key polls msg s hkey]
    exact hashMessage_in_fault polls k0 k1 msg hp (dvalid_eq_false_of_ne_done hvalid (by simp [hp]))
  · cases hkey : normalizeKey key with
    | key k0 k1 => exact digestFor_of_key p msg hkey
    | keyTooShort => exact digestFor_of_keyTooShort p msg hkey

end Sys2Proof.Proofs
